-- ==== Sys2Proof/Word.lean ====
section
/-! DEFINITION. The byte and the byte sequence (spec/00_scope.md R12, R15, R16). -/

namespace Sys2Proof

/-- "Input and frame bytes are 8-bit unsigned" (R12); bit 7 is the most significant (R15). -/
abbrev Byte := BitVec 8

/-- A finite byte sequence, first byte first (R16): a frame, the accumulator, a record field.
A frame may have any length, zero included (R71). -/
abbrev Frame := List Byte

end Sys2Proof
end

