-- ==== Sys2Proof/Config.lean ====
section
/-! DEFINITION. The constants the source fixes (spec/00_scope.md R11) and the parameters the spec
leaves OPEN (R13, R14): `ACC_CAP`, `HEX_CASE`, `TEXT_MAP`, `EOL`. -/

namespace Sys2Proof

namespace Config

/-- `FLAG`, the frame delimiter (R11). -/
abbrev flag : Byte := 0x7E
/-- `ESC`, the escape byte (R11). -/
abbrev esc : Byte := 0x7D
/-- `MASK`, XORed into the byte after `ESC` (R11). -/
abbrev mask : Byte := 0x20
/-- `MIN_LEN`, the least frame length the decoder accepts (R11). -/
abbrev minLen : Nat := 24
/-- `MAGIC0`, the required value of frame byte 0 (R11). -/
abbrev magic0 : Byte := 0x79
/-- `MAGIC2`, the required value of frame byte 2 (R11). -/
abbrev magic2 : Byte := 0x00
/-- `HDR_LEN`, the length of the fixed header; the trailer starts here (R11). -/
abbrev hdrLen : Nat := 20
/-- `TS_OFF`, the offset of the 32-bit little-endian timestamp (R11). -/
abbrev tsOff : Nat := 6
/-- `LN_OFF`, the offset of the 16-bit little-endian line number (R11). -/
abbrev lnOff : Nat := 12
/-- `SEP`, the trailer field separator (R11). -/
abbrev sep : Byte := 0x00
/-- `NL`, the byte stripped from the end of the message (R11). -/
abbrev nl : Byte := 0x0A
/-- `TS_WIDTH`, the rendered width of the timestamp, in characters (R11). -/
abbrev tsWidth : Nat := 10

end Config

/-- `ACC_CAP` (R13, D6): OPEN, `UNBOUNDED` (the reference value) or a positive integer N.
DESIGN CHOICE (log entry 3): the machine carries it as a constant field of `State`, so that every
statement over states is a statement over every value of the parameter. -/
inductive AccCap where
  /-- `UNBOUNDED`: the source's "growable buffer". -/
  | unbounded
  /-- The accumulator holds at most `n` bytes; `AccCap.legal` says `n` is positive. -/
  | bounded (n : Nat)
  deriving DecidableEq, Repr

/-- "a positive integer N" (R13). -/
def AccCap.legal : AccCap → Bool
  | .unbounded => true
  | .bounded n => decide (0 < n)

/-- `len ≤ ACC_CAP` (R20). -/
def AccCap.admits : AccCap → Nat → Bool
  | .unbounded, _ => true
  | .bounded n, len => decide (len ≤ n)

/-- `HEX_CASE` (R14, D17): OPEN. -/
inductive HexCase where
  | lower
  | upper
  deriving DecidableEq, Repr

/-- The parameters of the Sink rendering (R14). They are arguments of the rendering functions of
Machine/Render.lean and no part of the machine's state (R6), so a statement about Sink text
quantifies over them. -/
structure RenderParams where
  /-- `HEX_CASE` (D17). -/
  hexCase : HexCase
  /-- `TEXT_MAP` (D18): how a byte sequence becomes Sink text. -/
  textMap : List Byte → List Char
  /-- `EOL` (D19): the line terminator. -/
  eol : List Char

/-- The printable ASCII bytes 0x20..0x7E of R14. -/
def printable (b : Byte) : Bool := decide (0x20 ≤ b.toNat ∧ b.toNat ≤ 0x7E)

/-- The constraints the spec puts on the OPEN rendering parameters: `TEXT_MAP` "must be the identity
on the printable ASCII bytes 0x20..0x7E" (R14, D18) and `EOL` is "a non-empty character sequence"
(D19). DESIGN CHOICE (log entry 11): the identity is asked only of byte sequences all of whose bytes
are printable, the weakest reading. -/
structure RenderParams.Legal (p : RenderParams) : Prop where
  text_id : ∀ bs : List Byte, (∀ b ∈ bs, printable b = true) →
    p.textMap bs = bs.map fun b => Char.ofNat b.toNat
  eol_ne : p.eol ≠ []

end Sys2Proof
end

