-- ==== Sys2Proof/Syntax.lean ====
section
/-! DEFINITION. The operations (one constructor per row of spec/opcode_table.json), the input events
(spec/30_encoding.md R60), the byte classes (R62) and the keys that select an operation (R80 to R82). -/

namespace Sys2Proof

/-- The input alphabet of channel IN (R60): exactly three kinds of event. Control codes 0x02..0xFF of
the dispatch key have no constructor (R80, D25). -/
inductive InEvent where
  /-- `BYTE(b)`: one byte of the raw stream. -/
  | byte (b : Byte)
  /-- `EOI`: the end of the whole input stream. -/
  | eoi
  /-- `RESET`: return the block to its reset state. -/
  | reset
  deriving DecidableEq, Repr

/-- The event is RESET, the one event the fault gate lets through (R91). -/
def InEvent.isReset : InEvent → Bool
  | .reset => true
  | .byte _ => false
  | .eoi => false

/-- The three classes of an input byte (R62). -/
inductive ByteClass where
  | flag
  | esc
  | data
  deriving DecidableEq, Repr

/-- The operations of the block. The block "is not a processor and runs no program" (R2): what the
opcode table lists are the de-framer operations, selected by an input event and `esc`, the decoder
operations, selected by a frame, and the composition rules. -/
inductive Instr where
  /-- DF.RESET (R99): return to the reset state. -/
  | dfReset
  /-- DF.EOI (R98): the end of the whole input stream. -/
  | dfEoi
  /-- DF.FLAG (R92): flag while no escape is pending. -/
  | dfFlag
  /-- DF.FLAG_X (R93): flag while an escape is pending. -/
  | dfFlagX
  /-- DF.ESC (R94): escape byte while no escape is pending. -/
  | dfEsc
  /-- DF.ESC_X (R95): escape byte while an escape is pending. -/
  | dfEscX
  /-- DF.DATA (R96): data byte `b` while no escape is pending. -/
  | dfData (b : Byte)
  /-- DF.DATA_X (R97): data byte `b` while an escape is pending. -/
  | dfDataX (b : Byte)
  /-- PD.LOG (R122): the frame `f` passes the gate. -/
  | pdLog (f : Frame)
  /-- PD.UNREC (R123): the frame `f` fails the gate. -/
  | pdUnrec (f : Frame)
  /-- PIPE.SKIP (R150): the zero-length frame is not decoded. -/
  | pipeSkip
  /-- PIPE.DECODE (R151): the non-empty frame `f` is decoded. -/
  | pipeDecode (f : Frame)
  deriving DecidableEq, Repr

/-- What selects an operation: one form per dispatch of the spec. -/
inductive Code where
  /-- The 10-bit dispatch key K of R80. -/
  | key (k : BitVec 10)
  /-- A frame at the composition's dispatch, by its length (R82). -/
  | pipe (f : Frame)
  /-- A frame at the decoder's dispatch, by its length and bytes 0 and 2 (R81). -/
  | frame (f : Frame)
  deriving DecidableEq, Repr

/-- Why the decoder refuses a code. -/
inductive DecodeReject where
  /-- Control codes 0x02..0xFF with K[9] = 1 (R80, D25, I13). -/
  | reservedControlCode
  deriving DecidableEq, Repr

/-- The decoder's answer: an operation, or a rejection by name. -/
inductive Decoded where
  | ok (i : Instr)
  | rejected (r : DecodeReject)
  deriving DecidableEq, Repr

/-- The operation, where the decoder gives one. -/
def Decoded.instr? : Decoded → Option Instr
  | .ok i => some i
  | .rejected _ => none

end Sys2Proof
end

