-- ==== Sys2Proof/Machine/Operands.lean ====
section
/-! DEFINITION. Operand forms: the classes of an input byte (spec/30_encoding.md R62), the escape code
(R63), the frame space and its reads (spec/20_memory.md R40 to R46, spec/00_scope.md R17), and the
field extraction of the decoder (spec/41_decoder.md R121, R124 to R129). -/

namespace Sys2Proof

/-- "Every input byte falls into exactly one of three classes" (R62). -/
def byteClass (b : Byte) : ByteClass :=
  if b = Config.flag then .flag else if b = Config.esc then .esc else .data

/-- The frame byte that the pair `ESC b` stands for: `b XOR MASK` (R63). -/
def unescape (b : Byte) : Byte := b ^^^ Config.mask

/-- The byte of the frame space at an offset, or none where the frame has none (R16, R40). -/
def frameByte (f : Frame) (off : Nat) : Option Byte := f[off]?

/-- `Σ_k zext(bs[k]) << (8k)`: the byte at the lower offset is the less significant (R17, R42). -/
def littleEndian : List Byte → Nat
  | [] => 0
  | b :: bs => b.toNat + 2 ^ 8 * littleEndian bs

/-- `MemRead(off, n)` of the frame: "defined only when `off + n ≤ len(F)`" (R17). -/
def memRead (f : Frame) (off n : Nat) : Option Nat :=
  if off + n ≤ f.length then some (littleEndian ((f.drop off).take n)) else none

/-- `Valid(F)`, the validation gate (R121): the length first, then bytes 0 and 2. -/
def valid (f : Frame) : Bool :=
  decide (Config.minLen ≤ f.length)
    && (frameByte f 0 == some Config.magic0 && frameByte f 2 == some Config.magic2)

/-- `Timestamp(F) = MemRead(TS_OFF, 4)` (R128). -/
def timestamp (f : Frame) : Option (BitVec 32) := (memRead f Config.tsOff 4).map (BitVec.ofNat 32)

/-- `LineNumber(F) = MemRead(LN_OFF, 2)` (R129). -/
def lineNumber (f : Frame) : Option (BitVec 16) := (memRead f Config.lnOff 2).map (BitVec.ofNat 16)

/-- The trailer `F[20..)` (R66, R122). -/
def trailer (f : Frame) : List Byte := f.drop Config.hdrLen

/-- `find(s, v)`: the least offset of `v` in `s` (R16). -/
def findByte (s : List Byte) (v : Byte) : Option Nat := s.findIdx? (· == v)

/-- `SplitAtSep(s)` (R124). -/
def splitAtSep (s : List Byte) : List Byte × List Byte :=
  match findByte s Config.sep with
  | none => (s, [])
  | some i => (s.take i, s.drop (i + 1))

/-- `StripNL(m)` (R127): every 0x0A at the end is removed, and nothing else. -/
def stripNL (m : List Byte) : List Byte := (m.reverse.dropWhile (· == Config.nl)).reverse

/-- The record's message: the first part of the trailer, stripped (R125, R127). -/
def message (f : Frame) : List Byte := stripNL (splitAtSep (trailer f)).1

/-- The record's source file: the first part of the remainder, not stripped; the rest is discarded
(R126). -/
def sourceFile (f : Frame) : List Byte := (splitAtSep (splitAtSep (trailer f)).2).1

end Sys2Proof
end

