-- ==== Sys2Proof/WellFormed.lean ====
section
/-! DEFINITION. Well-formedness of an operation: its operands meet its row's condition
(spec/opcode_table.json, "excludes" and "condition"; spec/40_deframer.md R96, R97;
spec/30_encoding.md R81, R82). -/

namespace Sys2Proof

/-- The operands satisfy the row's condition. -/
def Instr.wf : Instr → Bool
  | .dfReset => true
  | .dfEoi => true
  | .dfFlag => true
  | .dfFlagX => true
  | .dfEsc => true
  | .dfEscX => true
  | .dfData b => byteClass b == .data
  | .dfDataX b => byteClass b == .data
  | .pdLog f => valid f
  | .pdUnrec f => !valid f
  | .pipeSkip => true
  | .pipeDecode f => !f.isEmpty

/-- The operation is one some code of the spec selects. -/
abbrev WellFormed (i : Instr) : Prop := i.wf = true

end Sys2Proof
end

