-- ==== Sys2Proof/Decode.lean ====
section
/-! DEFINITION. Dispatch (spec/30_encoding.md R80 to R82, spec/opcode_table.json), the encoder written
from the same tables, and the table words the host asks about. -/

namespace Sys2Proof

/-- `K[9]` = 1 for a control event (R80). -/
def InEvent.ctl : InEvent → Bool
  | .byte _ => false
  | .eoi => true
  | .reset => true

/-- `K[7:0]`: the byte, 0x00 for EOI, 0x01 for RESET (R80). -/
def InEvent.code : InEvent → Byte
  | .byte b => b
  | .eoi => 0x00
  | .reset => 0x01

/-- The 10-bit dispatch key K, formed from the input event and `esc` (R80). -/
def dispatchKey (ev : InEvent) (esc : Bool) : BitVec 10 :=
  BitVec.ofBool ev.ctl ++ BitVec.ofBool esc ++ ev.code

/-- The input event a key stands for; none for the reserved control codes (R80, D25). -/
def eventOfKey (k : BitVec 10) : Option InEvent :=
  if k.getLsbD 9 then
    if k.setWidth 8 = 0x01#8 then some .reset
    else if k.setWidth 8 = 0x00#8 then some .eoi
    else none
  else some (.byte (k.setWidth 8))

/-- The dispatch table of R80: each row by its match and mask of spec/opcode_table.json, in the order
of its priority; "the first that matches is taken". What no row matches is a reserved control code
(D25). -/
def decodeKey (k : BitVec 10) : Decoded :=
  if k &&& 0x2FF#10 = 0x201#10 then .ok .dfReset
  else if k &&& 0x2FF#10 = 0x200#10 then .ok .dfEoi
  else if k &&& 0x3FF#10 = 0x07E#10 then .ok .dfFlag
  else if k &&& 0x3FF#10 = 0x17E#10 then .ok .dfFlagX
  else if k &&& 0x3FF#10 = 0x07D#10 then .ok .dfEsc
  else if k &&& 0x3FF#10 = 0x17D#10 then .ok .dfEscX
  else if k &&& 0x300#10 = 0x000#10 then .ok (.dfData (k.setWidth 8))
  else if k &&& 0x300#10 = 0x100#10 then .ok (.dfDataX (k.setWidth 8))
  else .rejected .reservedControlCode

/-- The decoder's dispatch, by a classification of the frame (R81). -/
def decodeFrameCode (f : Frame) : Instr := if valid f then .pdLog f else .pdUnrec f

/-- The composition's dispatch, by the frame's length (R82). -/
def decodePipeCode (f : Frame) : Instr := if f.isEmpty then .pipeSkip else .pipeDecode f

/-- The dispatch of every level; total, and it rejects by name. -/
def decode : Code → Decoded
  | .key k => decodeKey k
  | .pipe f => .ok (decodePipeCode f)
  | .frame f => .ok (decodeFrameCode f)

/-- The code of an operation, from the same tables. `K[8]` is a don't-care of DF.RESET and DF.EOI
(R98, R99); their code has it 0. -/
def encode : Instr → Code
  | .dfReset => .key 0x201
  | .dfEoi => .key 0x200
  | .dfFlag => .key 0x07E
  | .dfFlagX => .key 0x17E
  | .dfEsc => .key 0x07D
  | .dfEscX => .key 0x17D
  | .dfData b => .key (0b00#2 ++ b)
  | .dfDataX b => .key (0b01#2 ++ b)
  | .pdLog f => .frame f
  | .pdUnrec f => .frame f
  | .pipeSkip => .pipe []
  | .pipeDecode f => .pipe f

/-- The frame that a 24-bit key `F[0]<<16 | F[1]<<8 | F[2]` of spec/opcode_table.json stands for. The
key gives only bytes 0 to 2; every byte above them is 0, up to `MIN_LEN` (log entry 9). -/
def tableFrame (w : Nat) : Frame :=
  [BitVec.ofNat 8 (w / 2 ^ 16), BitVec.ofNat 8 (w / 2 ^ 8), BitVec.ofNat 8 w]
    ++ List.replicate (Config.minLen - 3) 0x00#8

/-- The code a word of the opcode table stands for (log entry 9): the key K of R80 in 16 bits (10,
in whole bytes), the decoder's key of R81 in 24; a PIPE row has no key, so no bits stand for the
empty frame and 8 bits for the frame of that one byte. -/
def tableCode (nbits w : Nat) : Option Code :=
  if nbits = 16 ∨ nbits = 10 then
    if w < 2 ^ 10 then some (.key (BitVec.ofNat 10 w)) else none
  else if nbits = 24 then
    if w < 2 ^ 24 then some (.frame (tableFrame w)) else none
  else if nbits = 8 then
    if w < 2 ^ 8 then some (.pipe [BitVec.ofNat 8 w]) else none
  else if nbits = 0 then
    if w = 0 then some (.pipe []) else none
  else none

/-- The operation this decoder reads from a word of spec/opcode_table.json; none where it refuses. -/
def decodeTableWord (nbits w : Nat) : Option Instr :=
  (tableCode nbits w).bind fun c => (decode c).instr?

end Sys2Proof
end

