-- ==== Sys2Proof/Machine/State.lean ====
section
/-! DEFINITION. The machine's state (spec/10_state.md R20 to R33), its output events
(spec/30_encoding.md R61, R70 to R72), the reasons a run can stop, and the state after reset (R33). -/

namespace Sys2Proof.Machine

/-- A decoder result, the payload of REC_OUT (R70). -/
inductive RecResult where
  /-- Tag 0, `LOG` (LogRecord). -/
  | log (timestamp : BitVec 32) (lineNumber : BitVec 16) (message sourceFile : List Byte)
  /-- Tag 1, `UNREC` (UnrecognizedFrame): the frame's bytes, verbatim. -/
  | unrec (frame : Frame)
  deriving DecidableEq, Repr

/-- The info record of the Overflow fault (R72): the resolved byte that could not be appended, and
`len(acc)`. -/
structure OverflowInfo where
  byte : Byte
  len : Nat
  deriving DecidableEq, Repr

/-- A fault report, the payload of FAULT_OUT: Overflow is the only one (R72, R172). -/
inductive FaultReport where
  /-- Code 1. -/
  | overflow (info : OverflowInfo)
  deriving DecidableEq, Repr

/-- The output events of the three channels FRAME_OUT, REC_OUT and FAULT_OUT (R61). -/
inductive OutEvent where
  | frameOut (f : Frame)
  | recOut (r : RecResult)
  | faultOut (r : FaultReport)
  deriving DecidableEq, Repr

/-- Reasons the machine stops with a fault. The block's own fault, Overflow, is no stop: it is a next
state with `ovf` set (R172). -/
inductive Fault where
  /-- A decoder read outside the frame under decode, where `MemRead` is not defined (R17). Raised by
  `deliver` for PD.LOG and PIPE.DECODE. Safe: R41 says no access is ever out of range, and the
  statements say that no operation and no step raises it. -/
  | outsideFrame
  deriving DecidableEq, Repr

/-- Reasons there is no step. -/
inductive Refusal where
  /-- The operation has no meaning in the model yet. Raised by no arm of `exec`. Safe. -/
  | notModelled (mnemonic : String)
  /-- "`stuck` means the event has no step ... It is a refusal to proceed, not a value" (R17): a
  de-framer operation other than DF.RESET asked for while `ovf = 1` (R91, R173). Raised by
  `whenSelected` and `execDfEoi`; `step` never reaches it, since the fault gate of R91 comes before
  the dispatch. Safe. -/
  | stuck
  /-- The operation's row is not the one the dispatch selects: `esc` or the operand does not meet the
  row's condition (R80, R81, R82), so the spec gives the operation no meaning there. Raised by the
  meanings of conditioned rows; `step` never reaches it. Safe. -/
  | notSelected
  /-- A reserved control code 0x02..0xFF of the dispatch key (R80, D25, I13: `refuse`). Raised by
  `blockStep` where the dispatch rejects its key; no input event produces one. Safe. -/
  | reservedControlCode
  deriving DecidableEq, Repr

/-- The state. `esc`, `acc` and `ovf` are the block's entire state (R20). The other three fields are
the MODEL's own (log entries 1, 2 and 3): the host's side of the channels, and a constant parameter. -/
structure State where
  /-- `esc`, 1 bit, owned by the De-framer: an escape is pending (R20, R23). -/
  esc : Bool
  /-- `acc`, a byte sequence: the bytes of the current, undelimited frame (R20, R24). -/
  acc : Frame
  /-- `ovf`, 1 bit: the overflow fault flag (R20, R25). -/
  ovf : Bool
  /-- The parameter `ACC_CAP` (R13). No operation writes it. -/
  accCap : AccCap
  /-- The IN events the host has presented and the block has not yet taken, oldest first (R50, R60). -/
  input : List InEvent
  /-- The ordered trace of every output event emitted so far, oldest first (R161). -/
  out : List OutEvent
  deriving DecidableEq, Repr

/-- The reset state (R33, R190): `esc = 0`, `acc = []`, `ovf = 0`. `ACC_CAP` is at its reference value
UNBOUNDED (R13); no event has been presented and none emitted (a run starts here, R161). -/
def State.reset : State :=
  { esc := false, acc := [], ovf := false, accCap := .unbounded, input := [], out := [] }

/-- The tag of a result (R70). -/
def RecResult.tag : RecResult → Nat
  | .log _ _ _ _ => 0
  | .unrec _ => 1

/-- The code of a fault report (R72). -/
def FaultReport.code : FaultReport → Nat
  | .overflow _ => 1

end Sys2Proof.Machine
end

