-- ==== Sys2Proof/Machine/Flags.lean ====
section
/-! DEFINITION. The two state bits `esc` and `ovf` (spec/10_state.md R23, R25), which the rules of
spec/40_deframer.md call their flags, and the tests on them. The block has no condition codes beyond
these (R32). -/

namespace Sys2Proof.Machine

/-- `esc <- v`. -/
def State.setEsc (v : Bool) (s : State) : State := { s with esc := v }

/-- `ovf <- v`. -/
def State.setOvf (v : Bool) (s : State) : State := { s with ovf := v }

/-- The fault gate of R91: `ovf = 1 and ev ≠ RESET`; the event is then stuck (R173). -/
def stuckOn (ev : InEvent) (s : State) : Bool := s.ovf && !ev.isReset

/-- The capacity test of R90: `ACC_CAP ≠ UNBOUNDED and len(acc) = ACC_CAP`. -/
def accFull (s : State) : Bool :=
  match s.accCap with
  | .unbounded => false
  | .bounded n => decide (s.acc.length = n)

end Sys2Proof.Machine
end

