-- ==== Sys2Proof/Machine/Ops.lean ====
section
/-! DEFINITION. The shared operations: emitting an output event (spec/00_scope.md R17), emptying the
accumulator, appending to it (spec/40_deframer.md R90), the Overflow fault (spec/60_exceptions.md
R172), and the test that an operation is the one selected (R91). The block has no trap entry or return
(R176, R177): Overflow is its one exception, and DF.RESET the only recovery. -/

namespace Sys2Proof.Machine

/-- The outcome of an operation of this machine. -/
abbrev Result := Host.Outcome State Fault Refusal

/-- `emit CH(v)`: one event is appended to the output trace (R17). -/
def State.emit (e : OutEvent) (s : State) : State := { s with out := s.out ++ [e] }

/-- `acc <- v`. -/
def State.setAcc (v : Frame) (s : State) : State := { s with acc := v }

/-- `raise Overflow({byte: v, len: len(acc)})` (R172): `ovf` is set and FAULT_OUT emitted; "`esc` and
`acc` keep the values they had before the event; the byte v is not appended". -/
def raiseOverflow (v : Byte) (s : State) : State :=
  (s.setOvf true).emit (.faultOut (.overflow ⟨v, s.acc.length⟩))

/-- `Append(v)` (R90), then the operation's remaining effect `rest`. Where Append raises Overflow "the
step ends here": `rest` does not happen. -/
def appendThen (v : Byte) (rest : State → State) (s : State) : Result :=
  if accFull s then .next (raiseOverflow v s) else .next (rest (s.setAcc (s.acc ++ [v])))

/-- A `BYTE` operation runs where R91 and R80 select it: no fault is held (else the event is stuck,
R173) and `esc` has the row's value. -/
def whenSelected (escBit : Bool) (s : State) (effect : Result) : Result :=
  if s.ovf then .refused .stuck else if s.esc = escBit then effect else .refused .notSelected

/-- A decoder result is emitted on REC_OUT (R61, R151). No result means a read outside the frame. -/
def deliver (r : Option RecResult) (s : State) : Result :=
  match r with
  | some r => .next (s.emit (.recOut r))
  | none => .fault .outsideFrame

end Sys2Proof.Machine
end

