-- ==== Sys2Proof/Machine/Deframer.lean ====
section
/-! DEFINITION. The meanings of the de-framer operations (spec/40_deframer.md R92 to R99). -/

namespace Sys2Proof.Machine

/-- DF.FLAG (R92): the accumulator, however long, is emitted as a frame, and a new one begins. -/
def execDfFlag (s : State) : Result :=
  whenSelected false s (.next ((s.emit (.frameOut s.acc)).setAcc []))

/-- DF.FLAG_X (R93): the flag is data, 0x5E, and does not end the frame. -/
def execDfFlagX (s : State) : Result :=
  whenSelected true s (appendThen (unescape Config.flag) (·.setEsc false) s)

/-- DF.ESC (R94): nothing is appended; an escape is pending. -/
def execDfEsc (s : State) : Result :=
  whenSelected false s (.next (s.setEsc true))

/-- DF.ESC_X (R95): the escape byte is the escaped byte, and appends 0x5D (90_conflicts.md C3). -/
def execDfEscX (s : State) : Result :=
  whenSelected true s (appendThen (unescape Config.esc) (·.setEsc false) s)

/-- DF.DATA (R96): a byte that is neither FLAG nor ESC is appended verbatim. -/
def execDfData (b : Byte) (s : State) : Result :=
  whenSelected false s (if byteClass b = .data then appendThen b id s else .refused .notSelected)

/-- DF.DATA_X (R97): the byte is XORed with MASK and appended, and `esc` is cleared. -/
def execDfDataX (b : Byte) (s : State) : Result :=
  whenSelected true s
    (if byteClass b = .data then appendThen (unescape b) (·.setEsc false) s
      else .refused .notSelected)

/-- DF.EOI (R98): the partial frame is discarded, whatever `esc` is; stuck while `ovf = 1`. -/
def execDfEoi (s : State) : Result :=
  if s.ovf then .refused .stuck else .next ((s.setAcc []).setEsc false)

/-- DF.RESET (R99): accepted in every state. -/
def execDfReset (s : State) : Result :=
  .next (((s.setAcc []).setEsc false).setOvf false)

end Sys2Proof.Machine
end

