-- ==== Sys2Proof/Machine/Decoder.lean ====
section
/-! DEFINITION. The Packet Decoder (spec/41_decoder.md R120 to R129) and the meanings of its two
operations. The decoder holds no state (R28); its result leaves as a REC_OUT event (log entry 6). -/

namespace Sys2Proof.Machine

/-- `PD_LOG(F)` (R122); none only where a read would leave the frame, which the gate excludes (R41). -/
def pdLog (f : Frame) : Option RecResult :=
  (timestamp f).bind fun ts =>
    (lineNumber f).map fun ln => .log ts ln (message f) (sourceFile f)

/-- `PD_UNREC(F)` (R123). -/
def pdUnrec (f : Frame) : RecResult := .unrec f

/-- `Decode(F)` (R120). That it always gives a result is a statement of its own. -/
def decodeFrame (f : Frame) : Option RecResult := if valid f then pdLog f else some (pdUnrec f)

/-- PD.LOG (R122): the frame passes the gate. -/
def execPdLog (f : Frame) (s : State) : Result :=
  if valid f then deliver (pdLog f) s else .refused .notSelected

/-- PD.UNREC (R123): the frame fails the gate. -/
def execPdUnrec (f : Frame) (s : State) : Result :=
  if valid f then .refused .notSelected else deliver (some (pdUnrec f)) s

end Sys2Proof.Machine
end

