-- ==== Sys2Proof/Machine/Pipeline.lean ====
section
/-! DEFINITION. The meanings of the composition operations (spec/42_pipeline.md R150, R151). -/

namespace Sys2Proof.Machine

/-- PIPE.SKIP (R150): "nothing: no Decode, no REC_OUT". -/
def execPipeSkip (s : State) : Result := .next s

/-- PIPE.DECODE (R151): `emit REC_OUT(Decode(f))`, for a frame of at least one byte. -/
def execPipeDecode (f : Frame) (s : State) : Result :=
  if f.isEmpty then .refused .notSelected else deliver (decodeFrame f) s

end Sys2Proof.Machine
end

