-- ==== Sys2Proof/Machine/Dispatch.lean ====
section
/-! DEFINITION. One arm per operation of spec/opcode_table.json. -/

namespace Sys2Proof.Machine

/-- The meaning of an operation, by its row of the opcode table. -/
def exec (i : Instr) (s : State) : Host.Outcome State Fault Refusal :=
  match i with
  -- the de-framer, spec/40_deframer.md
  | .dfReset => Sys2Proof.Machine.execDfReset s
  | .dfEoi => Sys2Proof.Machine.execDfEoi s
  | .dfFlag => Sys2Proof.Machine.execDfFlag s
  | .dfFlagX => Sys2Proof.Machine.execDfFlagX s
  | .dfEsc => Sys2Proof.Machine.execDfEsc s
  | .dfEscX => Sys2Proof.Machine.execDfEscX s
  | .dfData b => Sys2Proof.Machine.execDfData b s
  | .dfDataX b => Sys2Proof.Machine.execDfDataX b s
  -- the packet decoder, spec/41_decoder.md
  | .pdLog f => Sys2Proof.Machine.execPdLog f s
  | .pdUnrec f => Sys2Proof.Machine.execPdUnrec f s
  -- the composition, spec/42_pipeline.md
  | .pipeSkip => Sys2Proof.Machine.execPipeSkip s
  | .pipeDecode f => Sys2Proof.Machine.execPipeDecode f s

end Sys2Proof.Machine
end

