-- ==== Sys2Proof/Machine/Block.lean ====
section
/-! DEFINITION. One step of the whole block (spec/42_pipeline.md R152) around `exec`: the fault gate, the
dispatch, the composition, the taking of an event from the host's queue, and the fold of the step over
an event list (R161). -/

namespace Sys2Proof.Machine

/-- `FRAME_OUT(f)`, if the operation emitted it (R152: "only DF.FLAG emits, at most one frame per
step"): the first of the events by which the trace has grown. -/
def emittedFrame (before after : State) : Option Frame :=
  match after.out.drop before.out.length with
  | .frameOut f :: _ => some f
  | _ => none

/-- The operation, and then the composition on the frame it emitted, if any (R152, R82). -/
def runOperation (i : Instr) (s : State) : Result :=
  match exec i s with
  | .next s' =>
    match emittedFrame s s' with
    | some f => exec (decodePipeCode f) s'
    | none => .next s'
  | .fault r => .fault r
  | .refused r => .refused r

/-- `BlockStep(ev)` (R152): the fault gate and the dispatch of `Step(ev)` (R91), then the operation and
the composition. A stuck event changes nothing and gives no output (R173; log entry 5). -/
def blockStep (ev : InEvent) (s : State) : Result :=
  if stuckOn ev s then .next s
  else
    match decode (.key (dispatchKey ev s.esc)) with
    | .ok i => runOperation i s
    | .rejected _ => .refused .reservedControlCode

/-- One step: the oldest presented event leaves the host's queue and the block steps on it. "When no IN
event is presented it takes no step, and its state persists unchanged" (R184; log entry 4). -/
def takeEvent (s : State) : Result :=
  match s.input with
  | [] => .next s
  | ev :: rest => blockStep ev { s with input := rest }

/-- The block's steps over a list of IN events, in order (R161). -/
def runEvents : List InEvent → State → Result
  | [], s => .next s
  | ev :: evs, s =>
    match blockStep ev s with
    | .next s' => runEvents evs s'
    | .fault r => .fault r
    | .refused r => .refused r

/-- `k` steps on the events the host has presented. -/
def runSteps : Nat → State → Result
  | 0, s => .next s
  | k + 1, s =>
    match takeEvent s with
    | .next s' => runSteps k s'
    | .fault r => .fault r
    | .refused r => .refused r

/-- The host presents more events, behind those not yet taken (R60, R160). -/
def State.present (evs : List InEvent) (s : State) : State := { s with input := s.input ++ evs }

/-- `s` with a code placed so that the very next step runs its operation. A key: `esc` is K[8] and the
event of K is the next one. A frame: it stands in the accumulator and an un-escaped flag is the next
event, so the step emits it and the composition and the decoder run on it (R152). `ovf` is cleared,
since the fault gate would make the event stuck. A reserved key has no event and changes nothing. -/
def State.placeCode (c : Code) (s : State) : State :=
  match c with
  | .key k =>
    match eventOfKey k with
    | some ev => { s with esc := k.getLsbD 8, ovf := false, input := ev :: s.input }
    | none => s
  | .pipe f => { s with esc := false, acc := f, ovf := false, input := .byte Config.flag :: s.input }
  | .frame f => { s with esc := false, acc := f, ovf := false, input := .byte Config.flag :: s.input }

end Sys2Proof.Machine
end

