-- ==== Sys2Proof/Machine/Step.lean ====
section
/-! DEFINITION. The step of the machine (spec/42_pipeline.md R152), and the placing of a word of the
opcode table as the next event. -/

namespace Sys2Proof.Machine

/-- One step of the whole block on the oldest presented IN event (R50, R152). -/
def step (s : State) : Host.Outcome State Fault Refusal := takeEvent s

/-- `s` with the operation of a word of spec/opcode_table.json placed so that the next step runs it. -/
def State.withFetchWord (s : State) (nbits w : Nat) : State :=
  match tableCode nbits w with
  | some c => s.placeCode c
  | none => s

end Sys2Proof.Machine
end

