-- ==== Sys2Proof/Machine/Wire.lean ====
section
/-! DEFINITION. The reference functions of the spec on streams and traces, which are no part of the
block: the escaper (spec/30_encoding.md R65), the stimuli (R85), the escape resolution
(spec/40_deframer.md R103), the de-framer of a whole stream (R104), and the channels of a trace
(R61, spec/42_pipeline.md R153). -/

namespace Sys2Proof.Machine

/-- The escape-coded bytes of one payload byte (R65). -/
def escapeByte (v : Byte) : List Byte :=
  if v = Config.esc ∨ v = Config.flag then [Config.esc, v ^^^ Config.mask] else [v]

/-- `Escape(p)` (R65): the escape-coded bytes, ended by a flag. -/
def escape (p : List Byte) : List Byte := p.flatMap escapeByte ++ [Config.flag]

/-- `feed h1 ... hn` (R85): the bytes as events, in order. -/
def feed (bs : List Byte) : List InEvent := bs.map .byte

/-- `feedframe h1 ... hn` (R85). -/
def feedFrame (p : List Byte) : List InEvent := feed (escape p)

/-- A stream presented chunk by chunk, each chunk run before the next is presented (R100): what a host
that reads the stream in buffers does. A chunk boundary is not an event (R60). -/
def runChunks : List (List Byte) → State → Result
  | [], s => .next s
  | c :: cs, s =>
    match runSteps c.length (s.present (feed c)) with
    | .next t => runChunks cs t
    | .fault r => .fault r
    | .refused r => .refused r

/-- The escape resolution of the bytes between two flags (R103), from a given `esc`: the bytes appended,
and the `esc` they leave; none if one of them is a flag processed with `esc = 0`. -/
def resolve : Bool → List Byte → Option (List Byte × Bool)
  | e, [] => some ([], e)
  | true, b :: bs => (resolve false bs).map fun r => (unescape b :: r.1, r.2)
  | false, b :: bs =>
    match byteClass b with
    | .flag => none
    | .esc => resolve true bs
    | .data => (resolve false bs).map fun r => (b :: r.1, r.2)

/-- The bytes that a list of events appends from a given `esc`, in arrival order, with no bound on the
accumulator: escapes resolved, un-escaped flags left out. What rule R101 counts. -/
def payload : Bool → List InEvent → List Byte
  | _, [] => []
  | _, .eoi :: evs => payload false evs
  | _, .reset :: evs => payload false evs
  | true, .byte b :: evs => unescape b :: payload false evs
  | false, .byte b :: evs =>
    match byteClass b with
    | .flag => payload false evs
    | .esc => payload true evs
    | .data => b :: payload false evs

/-- What becomes of a stretch of appended bytes (R101): a DF.FLAG emits them, or an EOI or RESET that
comes first discards them. -/
inductive Fate where
  | emitted (f : Frame)
  | discarded (f : Frame)
  deriving DecidableEq, Repr

/-- The bytes of the stretch, whatever becomes of them. -/
def Fate.bytes : Fate → Frame
  | .emitted f => f
  | .discarded f => f

/-- The fates that a list of events decides, in order, from a given `esc` and partial frame (R101): one for
each un-escaped flag, and one for each EOI and RESET. What no such event follows stays the partial frame. -/
def fates : Bool → Frame → List InEvent → List Fate
  | _, _, [] => []
  | _, cur, .eoi :: evs => .discarded cur :: fates false [] evs
  | _, cur, .reset :: evs => .discarded cur :: fates false [] evs
  | true, cur, .byte b :: evs => fates false (cur ++ [unescape b]) evs
  | false, cur, .byte b :: evs =>
    match byteClass b with
    | .flag => .emitted cur :: fates false [] evs
    | .esc => fates true cur evs
    | .data => fates false (cur ++ [b]) evs

/-- The frames among the fates. -/
def emittedFrames (fs : List Fate) : List Frame :=
  fs.filterMap fun
    | .emitted f => some f
    | .discarded _ => none

/-- The frames of a stream of bytes from a given `esc` and partial frame, with no bound on the
accumulator: a plain list function that knows nothing of states, keys or traces. -/
def deframeFrom : Bool → Frame → List Byte → List Frame
  | _, _, [] => []
  | true, cur, b :: bs => deframeFrom false (cur ++ [unescape b]) bs
  | false, cur, b :: bs =>
    match byteClass b with
    | .flag => cur :: deframeFrom false [] bs
    | .esc => deframeFrom true cur bs
    | .data => deframeFrom false (cur ++ [b]) bs

/-- `Deframe(s)` (R104): the frames of a whole stream; what no flag follows is discarded at its end. -/
def deframe (s : List Byte) : List Frame := deframeFrom false [] s

/-- The FRAME_OUT sequence of a trace. -/
def framesOf (out : List OutEvent) : List Frame :=
  out.filterMap fun
    | .frameOut f => some f
    | _ => none

/-- The REC_OUT sequence of a trace. -/
def recsOf (out : List OutEvent) : List RecResult :=
  out.filterMap fun
    | .recOut r => some r
    | _ => none

/-- The FAULT_OUT sequence of a trace. -/
def faultsOf (out : List OutEvent) : List FaultReport :=
  out.filterMap fun
    | .faultOut r => some r
    | _ => none

/-- `filter (len ≥ 1)` of a sequence of frames (R153). -/
def nonEmpty (fs : List Frame) : List Frame := fs.filter fun f => !f.isEmpty

/-- `Records(s) = map Decode (filter (len ≥ 1) (Deframe(s)))` (R154). -/
def records (s : List Byte) : List (Option RecResult) := (nonEmpty (deframe s)).map decodeFrame

/-- The outputs of the step that completes the frame `f` (R152): the frame, then its record if it is
not empty. -/
def frameOutputs (f : Frame) : List OutEvent :=
  .frameOut f :: (if f.isEmpty then [] else (decodeFrame f).toList.map .recOut)

end Sys2Proof.Machine
end

