-- ==== Sys2Proof/Machine/Render.lean ====
section
/-! DEFINITION. The rendering contract for the Sink (spec/42_pipeline.md R156 to R158): a reference
function on the block's output, no part of the block (spec/00_scope.md R6). -/

namespace Sys2Proof.Machine

/-- The decimal digit of a number below 10. -/
def decDigit (n : Nat) : Char := Char.ofNat ('0'.toNat + n)

/-- The decimal digits of `n`, at most `fuel` of them. -/
def decDigits : Nat → Nat → List Char
  | 0, _ => []
  | fuel + 1, n => if n < 10 then [decDigit n] else decDigits fuel (n / 10) ++ [decDigit (n % 10)]

/-- `Dec(n)` (R156): the decimal numeral, with no sign and no leading zeros. -/
def dec (n : Nat) : List Char := decDigits (n + 1) n

/-- `PadLeft10(d)` (R156): `d` preceded by `10 - len(d)` spaces. -/
def padLeft10 (d : List Char) : List Char := List.replicate (Config.tsWidth - d.length) ' ' ++ d

/-- One hex digit, in the case `HEX_CASE` gives (R157). -/
def hexDigit (c : HexCase) (n : Nat) : Char :=
  if n < 10 then decDigit n
  else
    match c with
    | .lower => Char.ofNat ('a'.toNat + (n - 10))
    | .upper => Char.ofNat ('A'.toNat + (n - 10))

/-- `Hex` (R157): two digits per byte, most significant nibble first, no separator. -/
def hex (c : HexCase) (f : Frame) : List Char :=
  f.flatMap fun b => [hexDigit c (b.toNat / 16), hexDigit c (b.toNat % 16)]

/-- `RenderLog` (R156). -/
def renderLog (p : RenderParams) (ts : BitVec 32) (ln : BitVec 16) (msg sf : List Byte) : List Char :=
  padLeft10 (dec ts.toNat) ++ ": ".toList ++ p.textMap msg ++ " (".toList ++ p.textMap sf
    ++ ":".toList ++ dec ln.toNat ++ ")".toList ++ p.eol

/-- `RenderUnrec` (R157). -/
def renderUnrec (p : RenderParams) (f : Frame) : List Char :=
  "[unknown packet: ".toList ++ hex p.hexCase f ++ "]".toList ++ p.eol

/-- The rendering of a result (R73). -/
def render (p : RenderParams) : RecResult → List Char
  | .log ts ln msg sf => renderLog p ts ln msg sf
  | .unrec f => renderUnrec p f

/-- The Sink text of a trace (R158): one rendering for each REC_OUT event, in order, and none for any
other event. -/
def sinkText (p : RenderParams) (out : List OutEvent) : List Char := (recsOf out).flatMap (render p)

end Sys2Proof.Machine
end

