-- ==== Sys2Proof/Safety.lean ====
section
/-! DEFINITION. What counts as a good state and a finished run (spec/10_state.md R25, R26,
spec/42_pipeline.md R153, R161). -/

namespace Sys2Proof.Machine

/-- The block's invariants: `ACC_CAP` is a legal value (R13), `len(acc) ≤ ACC_CAP` (R20, R26 (i)), and
`ovf` is set only at a full accumulator, so never when `ACC_CAP = UNBOUNDED` (R25, R172). -/
def State.wf (s : State) : Bool :=
  s.accCap.legal && s.accCap.admits s.acc.length && (!s.ovf || accFull s)

/-- The REC_OUT sequence is `map Decode (filter (len ≥ 1) FRAME_OUT-sequence)` (R153). -/
def State.paired (s : State) : Prop :=
  (recsOf s.out).map some = (nonEmpty (framesOf s.out)).map decodeFrame

/-- The FAULT_OUT event of the fault that set `ovf` stands in the trace (R172, R173). -/
def State.faultRecorded (s : State) : Prop := s.ovf = true → faultsOf s.out ≠ []

/-- "no FAULT_OUT in the trace", the premise of a claim about a run with a bounded `ACC_CAP` (R161). -/
def State.faultFree (s : State) : Prop := faultsOf s.out = []

/-- The block's state is the reset state (R33): `esc = 0`, `acc = []`, `ovf = 0`. -/
def State.blockIsReset (s : State) : Prop := s.esc = false ∧ s.acc = [] ∧ s.ovf = false

/-- A finished run (R161): every presented event is taken, and the state is not stuck. -/
def State.finished (s : State) : Prop := s.input = [] ∧ s.ovf = false

end Sys2Proof.Machine
end

