-- ==== Sys2Proof/Certificates/Slice0/Obligations.lean ====
section
/-! DEFINITION. The statements for the provers, each from a numbered rule of spec/ or derived from its
sections. An effect is written as one record update of the state before, so each says its frame too:
every field it does not name is unchanged. -/

open Sys2Proof
open Sys2Proof.Machine

/-! ## Dispatch and encoding -/

/-- R80: the dispatch key, its table for every event and `esc`, and the reserved codes; and the fault
gate before them (R91). That the block step on a stuck event answers the state as it is, where R17 calls
`stuck` a refusal to proceed and R173 says there is no step, is the model's reading (log entry 5). -/
def Obligations.DispatchFollowsTheKeyTable : Prop :=
  (∀ (ev : InEvent) (e : Bool),
    (dispatchKey ev e).getLsbD 8 = e
    ∧ ((dispatchKey ev e).getLsbD 9 = true ↔ ev = .eoi ∨ ev = .reset)
    ∧ (dispatchKey ev e).setWidth 8 =
        (match ev with | .byte b => b | .eoi => 0x00#8 | .reset => 0x01#8)
    ∧ decode (.key (dispatchKey ev e)) = .ok
        (match ev, e with
          | .reset, _ => .dfReset
          | .eoi, _ => .dfEoi
          | .byte b, false => if b = 0x7E#8 then .dfFlag else if b = 0x7D#8 then .dfEsc else .dfData b
          | .byte b, true =>
            if b = 0x7E#8 then .dfFlagX else if b = 0x7D#8 then .dfEscX else .dfDataX b))
  ∧ (∀ k : BitVec 10, k.getLsbD 9 = true → 2 ≤ (k.setWidth 8).toNat →
      decode (.key k) = .rejected .reservedControlCode ∧ ∀ ev e, dispatchKey ev e ≠ k)
  ∧ ∀ (s : State) (ev : InEvent), s.ovf = true → ev ≠ .reset → blockStep ev s = .next s

/-- R81 and R82: the classifications of a frame, by its bytes 0 and 2 and its length. -/
def Obligations.FramesAreClassifiedByGateAndLength : Prop :=
  (∀ f : Frame, 24 ≤ f.length → f[0]? = some 0x79#8 → f[2]? = some 0x00#8 →
    decode (.frame f) = .ok (.pdLog f))
  ∧ (∀ f : Frame, ¬ (24 ≤ f.length ∧ f[0]? = some 0x79#8 ∧ f[2]? = some 0x00#8) →
    decode (.frame f) = .ok (.pdUnrec f))
  ∧ decode (.pipe []) = .ok .pipeSkip
  ∧ ∀ f : Frame, f ≠ [] → decode (.pipe f) = .ok (.pipeDecode f)

/-- A sanity statement: keys and frames written out from the spec's encodings (R80 to R82) decode to their
operations. The clause on the table word 0x79FF00 is the model's choice: that a 24-bit word stands for the
first three bytes of a 24-byte frame otherwise 0 is its reading of the table (log entry 9). -/
def Obligations.SpecWordsDecodeToTheirOperations : Prop :=
  decode (.key 0b1000000001#10) = .ok .dfReset
  ∧ decode (.key 0b1100000001#10) = .ok .dfReset
  ∧ decode (.key 0b1000000000#10) = .ok .dfEoi
  ∧ decode (.key 0b0001111110#10) = .ok .dfFlag
  ∧ decode (.key 0b0101111110#10) = .ok .dfFlagX
  ∧ decode (.key 0b0001111101#10) = .ok .dfEsc
  ∧ decode (.key 0b0101111101#10) = .ok .dfEscX
  ∧ decode (.key 0b0001000001#10) = .ok (.dfData 0x41)
  ∧ decode (.key 0b0101000001#10) = .ok (.dfDataX 0x41)
  ∧ decodeTableWord 24 0x79FF00 = some (.pdLog (0x79#8 :: 0xFF#8 :: List.replicate 22 0x00#8))
  ∧ decode (.frame [0x79, 0x00, 0x01]) = .ok (.pdUnrec [0x79, 0x00, 0x01])
  ∧ decode (.pipe []) = .ok .pipeSkip
  ∧ decode (.pipe [0xAA]) = .ok (.pipeDecode [0xAA])

/-- Decode and encode agree: no bit of an operand is dropped, for every well-formed operation. -/
def Obligations.DecodeOfEncodeIsTheOperation : Prop :=
  ∀ i : Instr, WellFormed i → decode (encode i) = .ok i

/-- The other direction: what the dispatch selects is well-formed, and its code is the one given, but for
the don't-care `K[8]` of the control rows (R98, R99). -/
def Obligations.EncodeOfDecodeIsTheCode : Prop :=
  ∀ (c : Code) (i : Instr), decode c = .ok i →
    WellFormed i
    ∧ (encode i = c ∨ ∃ k : BitVec 10, c = .key k ∧ k.getLsbD 9 = true ∧ encode i = .key (k &&& 0x2FF#10))

/-- R62: the three classes, and every byte value is legal in every state: the block step on it answers a
next state. With `ovf = 1` the byte is stuck and has no step (R17, R173); that the block step then
passes over it, answering the same state, is the model's reading (log entry 5). -/
def Obligations.EveryByteHasOneClassAndIsLegal : Prop :=
  (∀ b : Byte, (byteClass b = .flag ↔ b = 0x7E#8) ∧ (byteClass b = .esc ↔ b = 0x7D#8)
    ∧ (byteClass b = .data ↔ b ≠ 0x7E#8 ∧ b ≠ 0x7D#8))
  ∧ ∀ (b : Byte) (s : State), ∃ t, blockStep (.byte b) s = .next t

/-! ## The de-framer operations -/

/-- R92, DF.FLAG. -/
def Obligations.FlagEmitsTheAccumulatorAsAFrame : Prop :=
  decode (.key 0x07E#10) = .ok .dfFlag
  ∧ ∀ s : State, s.ovf = false → s.esc = false →
    exec .dfFlag s = .next { s with acc := [], out := s.out ++ [.frameOut s.acc] }

/-- R93, DF.FLAG_X: with room its own effect; at a full accumulator, Overflow. -/
def Obligations.EscapedFlagAppends5E : Prop :=
  decode (.key 0x17E#10) = .ok .dfFlagX
  ∧ ∀ s : State, s.ovf = false → s.esc = true →
    ((∀ n, s.accCap = .bounded n → s.acc.length ≠ n) →
      exec .dfFlagX s = .next { s with acc := s.acc ++ [0x5E#8], esc := false })
    ∧ ∀ n, s.accCap = .bounded n → s.acc.length = n →
      exec .dfFlagX s =
        .next { s with ovf := true, out := s.out ++ [.faultOut (.overflow ⟨0x5E#8, n⟩)] }

/-- R94, DF.ESC. -/
def Obligations.EscapeByteSetsEscapePending : Prop :=
  decode (.key 0x07D#10) = .ok .dfEsc
  ∧ ∀ s : State, s.ovf = false → s.esc = false → exec .dfEsc s = .next { s with esc := true }

/-- R95, DF.ESC_X: the second escape byte is data and the escape does not stay pending. -/
def Obligations.EscapedEscapeAppends5D : Prop :=
  decode (.key 0x17D#10) = .ok .dfEscX
  ∧ ∀ s : State, s.ovf = false → s.esc = true →
    ((∀ n, s.accCap = .bounded n → s.acc.length ≠ n) →
      exec .dfEscX s = .next { s with acc := s.acc ++ [0x5D#8], esc := false })
    ∧ ∀ n, s.accCap = .bounded n → s.acc.length = n →
      exec .dfEscX s =
        .next { s with ovf := true, out := s.out ++ [.faultOut (.overflow ⟨0x5D#8, n⟩)] }

/-- R96, DF.DATA, for every byte but 0x7D and 0x7E. -/
def Obligations.DataByteIsAppendedVerbatim : Prop :=
  ∀ b : Byte, b ≠ 0x7D#8 → b ≠ 0x7E#8 →
    decode (.key (0b00#2 ++ b)) = .ok (.dfData b)
    ∧ ∀ s : State, s.ovf = false → s.esc = false →
      ((∀ n, s.accCap = .bounded n → s.acc.length ≠ n) →
        exec (.dfData b) s = .next { s with acc := s.acc ++ [b] })
      ∧ ∀ n, s.accCap = .bounded n → s.acc.length = n →
        exec (.dfData b) s =
          .next { s with ovf := true, out := s.out ++ [.faultOut (.overflow ⟨b, n⟩)] }

/-- R97, DF.DATA_X, for every byte but 0x7D and 0x7E. -/
def Obligations.EscapedDataByteIsXoredAndAppended : Prop :=
  ∀ b : Byte, b ≠ 0x7D#8 → b ≠ 0x7E#8 →
    decode (.key (0b01#2 ++ b)) = .ok (.dfDataX b)
    ∧ ∀ s : State, s.ovf = false → s.esc = true →
      ((∀ n, s.accCap = .bounded n → s.acc.length ≠ n) →
        exec (.dfDataX b) s = .next { s with acc := s.acc ++ [b ^^^ 0x20#8], esc := false })
      ∧ ∀ n, s.accCap = .bounded n → s.acc.length = n →
        exec (.dfDataX b) s =
          .next { s with ovf := true, out := s.out ++ [.faultOut (.overflow ⟨b ^^^ 0x20#8, n⟩)] }

/-- R98, DF.EOI: whatever `esc` and the partial frame are. -/
def Obligations.EndOfInputDiscardsThePartialFrame : Prop :=
  decode (.key 0x200#10) = .ok .dfEoi ∧ decode (.key 0x300#10) = .ok .dfEoi
  ∧ ∀ s : State, s.ovf = false →
    exec .dfEoi s = .next { s with acc := [], esc := false }
    ∧ blockStep .eoi s = .next { s with acc := [], esc := false }

/-- R99, DF.RESET: in every state, a stuck one included. -/
def Obligations.ResetIsAcceptedInEveryState : Prop :=
  decode (.key 0x201#10) = .ok .dfReset ∧ decode (.key 0x301#10) = .ok .dfReset
  ∧ ∀ s : State,
    exec .dfReset s = .next { s with acc := [], esc := false, ovf := false }
    ∧ blockStep .reset s = .next { s with acc := [], esc := false, ovf := false }

/-- R33: the values after RESET, which are the initial state's. -/
def Obligations.ResetLeavesTheResetState : Prop :=
  State.reset.esc = false ∧ State.reset.acc = [] ∧ State.reset.ovf = false
  ∧ ∀ s t : State, exec .dfReset s = .next t →
    t.esc = State.reset.esc ∧ t.acc = State.reset.acc ∧ t.ovf = State.reset.ovf

/-- Where the de-framer operations stop: with `ovf = 1` every one but DF.RESET is stuck; with `ovf = 0`
an operation whose row the dispatch does not select is refused. The refusals are the model's own
(log entry 7); the spec's rules give such an operation no step. -/
def Obligations.UnselectedOperationsAreRefused : Prop :=
  (∀ (s : State) (b : Byte), s.ovf = true →
    ∀ i ∈ [Instr.dfEoi, .dfFlag, .dfFlagX, .dfEsc, .dfEscX, .dfData b, .dfDataX b],
      exec i s = .refused .stuck)
  ∧ (∀ (s : State) (b : Byte), s.ovf = false → s.esc = true →
    ∀ i ∈ [Instr.dfFlag, .dfEsc, .dfData b], exec i s = .refused .notSelected)
  ∧ (∀ (s : State) (b : Byte), s.ovf = false → s.esc = false →
    ∀ i ∈ [Instr.dfFlagX, .dfEscX, .dfDataX b], exec i s = .refused .notSelected)
  ∧ ∀ (s : State) (i : Instr), s.ovf = false → ¬ WellFormed i → exec i s = .refused .notSelected

/-- R63: the pair `ESC b` stands for `b XOR MASK`, for all 256 values of `b`. -/
def Obligations.EveryEscapePairIsLegal : Prop :=
  (∀ b : Byte, unescape (unescape b) = b)
  ∧ ∀ (s : State) (b : Byte), s.ovf = false → s.esc = false →
    (∀ n, s.accCap = .bounded n → s.acc.length ≠ n) →
    runEvents [.byte 0x7D#8, .byte b] s = .next { s with acc := s.acc ++ [b ^^^ 0x20#8] }

/-! ## Overflow -/

/-- R172: a byte that would be appended to a full accumulator raises Overflow, whose effect is this and
nothing else; and whatever operation adds a FAULT_OUT event, or sets `ovf`, is one of the four that
append, at a full accumulator. -/
def Obligations.OverflowIsPreciseAndTheOnlyFault : Prop :=
  (∀ (s : State) (n : Nat) (b : Byte), s.accCap = .bounded n → s.acc.length = n → s.ovf = false →
    (s.esc = true ∨ (b ≠ 0x7D#8 ∧ b ≠ 0x7E#8)) →
    blockStep (.byte b) s =
      .next { s with
        ovf := true,
        out := s.out ++ [.faultOut (.overflow ⟨if s.esc then b ^^^ 0x20#8 else b, n⟩)] })
  ∧ ∀ (i : Instr) (s t : State), exec i s = .next t →
    (faultsOf t.out = faultsOf s.out ∧ (t.ovf = true → s.ovf = true))
    ∨ ∃ v n, s.accCap = .bounded n ∧ s.acc.length = n ∧ s.ovf = false
        ∧ ((i = .dfFlagX ∧ v = 0x5E#8) ∨ (i = .dfEscX ∧ v = 0x5D#8) ∨ i = .dfData v
            ∨ i = .dfDataX (v ^^^ 0x20#8))
        ∧ (FaultReport.overflow ⟨v, n⟩).code = 1
        ∧ t = { s with ovf := true, out := s.out ++ [.faultOut (.overflow ⟨v, n⟩)] }

/-- R173: whatever BYTE and EOI events follow, a state with `ovf = 1` does not change and gives no
output, its trace kept; RESET then recovers. R173 says of a stuck event that there is no step: that the
run passes over it, answering the same state, so that a RESET behind it arrives, is the model's reading
(log entry 5). -/
def Obligations.FaultedBlockIsStuckUntilReset : Prop :=
  ∀ (s : State) (evs : List InEvent), s.ovf = true → .reset ∉ evs →
    runEvents evs s = .next s
    ∧ runEvents (evs ++ [.reset]) s = .next { s with acc := [], esc := false, ovf := false }

/-- R25: with `ACC_CAP = UNBOUNDED`, `ovf` stays 0 forever and no FAULT_OUT is ever added. -/
def Obligations.UnboundedAccumulatorNeverFaults : Prop :=
  ∀ (evs : List InEvent) (s : State), s.accCap = .unbounded → s.ovf = false →
    ∃ t, runEvents evs s = .next t ∧ t.ovf = false ∧ t.accCap = .unbounded
      ∧ faultsOf t.out = faultsOf s.out

/-! ## The packet decoder -/

/-- R17 (MemRead): the value where it is defined, and that it is defined nowhere else. -/
def Obligations.MemReadIsLittleEndian : Prop :=
  ∀ (f : Frame) (off n : Nat),
    (off + n ≤ f.length →
      memRead f off n =
        some (∑ k ∈ Finset.range n, ((f[off + k]?).getD 0x00#8).toNat <<< (8 * k)))
    ∧ (¬ off + n ≤ f.length → memRead f off n = none)

/-- R122, R128, R129: the record of a frame that passes the gate, field by field. What `splitAtSep` and
`stripNL` do is said by the statements on R124 to R127. -/
def Obligations.LogFrameDecodesToItsRecord : Prop :=
  ∀ f : Frame, 24 ≤ f.length → f[0]? = some 0x79#8 → f[2]? = some 0x00#8 →
    decode (.frame f) = .ok (.pdLog f)
    ∧ ∃ b6 b7 b8 b9 b12 b13 : Byte,
        f[6]? = some b6 ∧ f[7]? = some b7 ∧ f[8]? = some b8 ∧ f[9]? = some b9
        ∧ f[12]? = some b12 ∧ f[13]? = some b13
        ∧ decodeFrame f = some
            (.log
              (BitVec.ofNat 32 (b6.toNat ||| b7.toNat <<< 8 ||| b8.toNat <<< 16 ||| b9.toNat <<< 24))
              (BitVec.ofNat 16 (b12.toNat ||| b13.toNat <<< 8))
              (stripNL (splitAtSep (f.drop 20)).1)
              (splitAtSep (splitAtSep (f.drop 20)).2).1)

/-- R120, R121, R123: the decoder gives exactly one result for every byte sequence: LOG (tag 0) where the
gate holds, UNREC (tag 1) of the frame, verbatim, everywhere else. -/
def Obligations.DecoderIsTotal : Prop :=
  ∀ f : Frame,
    (24 ≤ f.length ∧ f[0]? = some 0x79#8 ∧ f[2]? = some 0x00#8 →
      ∃ ts ln msg sf, decodeFrame f = some (.log ts ln msg sf)
        ∧ (RecResult.log ts ln msg sf).tag = 0)
    ∧ (¬ (24 ≤ f.length ∧ f[0]? = some 0x79#8 ∧ f[2]? = some 0x00#8) →
        decode (.frame f) = .ok (.pdUnrec f)
        ∧ decodeFrame f = some (.unrec f) ∧ (RecResult.unrec f).tag = 1)

/-- PD.LOG and PD.UNREC complete on every frame of their row, in every state, and emit the decoder's
result on REC_OUT; PIPE.DECODE does what the one of the two that R81 selects does. That a decoder
operation run by itself emits its result is the model's reading (log entry 6). -/
def Obligations.DecoderOperationsEmitTheirResult : Prop :=
  (∀ (f : Frame) (s : State), 24 ≤ f.length → f[0]? = some 0x79#8 → f[2]? = some 0x00#8 →
    ∃ r, decodeFrame f = some r ∧ r.tag = 0
      ∧ exec (.pdLog f) s = .next { s with out := s.out ++ [.recOut r] })
  ∧ (∀ (f : Frame) (s : State), ¬ (24 ≤ f.length ∧ f[0]? = some 0x79#8 ∧ f[2]? = some 0x00#8) →
    exec (.pdUnrec f) s = .next { s with out := s.out ++ [.recOut (.unrec f)] })
  ∧ ∀ (f : Frame) (s : State) (i : Instr), f ≠ [] → decode (.frame f) = .ok i →
    exec i s = exec (.pipeDecode f) s

/-- R124: the cut at the first 0x00, which belongs to neither part. -/
def Obligations.SplitIsAtTheFirstSeparator : Prop :=
  (∀ s : List Byte, 0x00#8 ∉ s → splitAtSep s = (s, []))
  ∧ ∀ a b : List Byte, 0x00#8 ∉ a → splitAtSep (a ++ 0x00#8 :: b) = (a, b)

/-- R125, R126, R132: the trailer with no separator, with one, and with two or more. -/
def Obligations.TrailerIsSplitAtItsFirstTwoSeparators : Prop :=
  ∀ (f : Frame) (m sf rest : List Byte), 0x00#8 ∉ m → 0x00#8 ∉ sf →
    (f.drop 20 = m → message f = stripNL m ∧ sourceFile f = [])
    ∧ (f.drop 20 = m ++ 0x00#8 :: sf → message f = stripNL m ∧ sourceFile f = sf)
    ∧ (f.drop 20 = m ++ 0x00#8 :: (sf ++ 0x00#8 :: rest) →
        message f = stripNL m ∧ sourceFile f = sf)

/-- R127: exactly the 0x0A bytes at the end are removed. -/
def Obligations.StripRemovesExactlyTheTrailingNewlines : Prop :=
  ∀ m : List Byte, (∃ k, m = stripNL m ++ List.replicate k 0x0A#8)
    ∧ (stripNL m).getLast? ≠ some 0x0A#8

/-- R130: what every result satisfies. -/
def Obligations.DecodedFieldsAreBounded : Prop :=
  (∀ (f : Frame) (ts : BitVec 32) (ln : BitVec 16) (msg sf : List Byte),
    decodeFrame f = some (.log ts ln msg sf) →
      ts.toNat < 2 ^ 32 ∧ ln.toNat < 2 ^ 16
      ∧ 0x00#8 ∉ msg ∧ msg.getLast? ≠ some 0x0A#8 ∧ 0x00#8 ∉ sf
      ∧ msg.length + sf.length ≤ f.length - 20
      ∧ ∃ rest, f.drop 20 = msg ++ rest)
  ∧ ∀ f g : Frame, decodeFrame f = some (.unrec g) → g = f

/-- R131: the unread header bytes have no effect, and byte 1 none on the gate. -/
def Obligations.UnreadHeaderBytesHaveNoEffect : Prop :=
  (∀ f g : Frame, valid f = true → valid g = true → f.length = g.length →
    (∀ k, k ∉ [1, 3, 4, 5, 10, 11, 14, 15, 16, 17, 18, 19] → f[k]? = g[k]?) →
    decodeFrame f = decodeFrame g)
  ∧ ∀ (f : Frame) (b : Byte), valid (f.set 1 b) = valid f

/-- R41: no access of the block is ever out of range: no operation faults in any state, and no step. -/
def Obligations.NoAccessIsOutOfRange : Prop :=
  (∀ (i : Instr) (s : State) (r : Fault), exec i s ≠ .fault r)
  ∧ ∀ (s : State) (r : Fault), step s ≠ .fault r

/-! ## The composition -/

/-- R150, PIPE.SKIP: nothing happens; a flag on an empty accumulator gives the empty frame and no
record. -/
def Obligations.EmptyFrameIsSkipped : Prop :=
  decode (.pipe []) = .ok .pipeSkip
  ∧ (∀ s : State, exec .pipeSkip s = .next s)
  ∧ ∀ s : State, s.ovf = false → s.esc = false → s.acc = [] →
    blockStep (.byte 0x7E#8) s = .next { s with out := s.out ++ [.frameOut []] }

/-- R151, PIPE.DECODE: one REC_OUT event, with the frame's result. -/
def Obligations.NonEmptyFrameIsDecoded : Prop :=
  ∀ (f : Frame) (s : State), f ≠ [] →
    decode (.pipe f) = .ok (.pipeDecode f)
    ∧ ∃ r, decodeFrame f = some r
      ∧ exec (.pipeDecode f) s = .next { s with out := s.out ++ [.recOut r] }

/-- R152: the outputs of one step of the block, and the event and state that give each. That the block
step on a stuck event answers a next state at all is the model's reading (log entry 5). -/
def Obligations.StepOutputsComeInTheFixedOrder : Prop :=
  ∀ (ev : InEvent) (s t : State), blockStep ev s = .next t →
    (t.out = s.out
      ∧ (ev = .reset ∨ ev = .eoi ∨ s.ovf = true ∨ (ev = .byte 0x7D#8 ∧ s.esc = false)
          ∨ ∃ b, ev = .byte b ∧ (s.esc = true ∨ (b ≠ 0x7D#8 ∧ b ≠ 0x7E#8))
              ∧ ∀ n, s.accCap = .bounded n → s.acc.length ≠ n))
    ∨ (ev = .byte 0x7E#8 ∧ s.esc = false ∧ s.ovf = false ∧ t.acc = [] ∧
        ((s.acc = [] ∧ t.out = s.out ++ [.frameOut []])
          ∨ ∃ r, s.acc ≠ [] ∧ decodeFrame s.acc = some r
              ∧ t.out = s.out ++ [.frameOut s.acc, .recOut r]))
    ∨ ∃ b n, ev = .byte b ∧ s.ovf = false ∧ (s.esc = true ∨ (b ≠ 0x7D#8 ∧ b ≠ 0x7E#8))
        ∧ s.accCap = .bounded n ∧ s.acc.length = n ∧ t.ovf = true
        ∧ t.out = s.out ++ [.faultOut (.overflow ⟨if s.esc then b ^^^ 0x20#8 else b, n⟩)]

/-- R153: from every state whose trace pairs records with non-empty frames, a step leads to one. -/
def Obligations.RecordsStayPairedWithFrames : Prop :=
  ∀ s t : State, s.paired → step s = .next t → t.paired

/-- R26 (i), R25: from every state that meets the block's invariants, a step leads to one. -/
def Obligations.StepKeepsTheBlockInvariants : Prop :=
  ∀ s t : State, s.wf = true → step s = .next t → t.wf = true

/-- R172, R173: while `ovf = 1` the FAULT_OUT event that set it stands in the trace. -/
def Obligations.StepKeepsTheFaultRecorded : Prop :=
  ∀ s t : State, s.faultRecorded → step s = .next t → t.faultRecorded

/-- The invariants hold at reset, whatever legal value the parameter ACC_CAP has (R13); State.reset is
the one of them with the reference value (log entry 3). -/
def Obligations.InvariantsHoldAtReset : Prop :=
  (State.reset.wf = true ∧ State.reset.paired ∧ State.reset.faultRecorded)
  ∧ ∀ c : AccCap, c.legal = true →
    { State.reset with accCap := c }.wf = true ∧ { State.reset with accCap := c }.paired
    ∧ { State.reset with accCap := c }.faultRecorded

/-- A step is `exec` of the operation the dispatch selects, on the state with the event taken from the
queue; after DF.FLAG the composition's operation runs on the frame just emitted. -/
def Obligations.StepRunsTheDispatchedOperation : Prop :=
  ∀ (s : State) (ev : InEvent) (rest : List InEvent) (i : Instr),
    s.input = ev :: rest → (s.ovf = false ∨ ev = .reset) →
    decode (.key (dispatchKey ev s.esc)) = .ok i →
    WellFormed i
    ∧ (i ≠ .dfFlag → step s = exec i { s with input := rest })
    ∧ (i = .dfFlag →
        step s = exec (decodePipeCode s.acc)
          { s with input := rest, acc := [], out := s.out ++ [.frameOut s.acc] })

/-- R184: with no event presented, the state persists unchanged. That the model's step answers the same
state, and not a stop, is its choice (log entry 4). -/
def Obligations.WithNoEventTheStatePersists : Prop :=
  ∀ s : State, s.input = [] → step s = .next s

/-- R170, R74: every event takes its step or is stuck, and a stuck event changes nothing: no event
list, from any state, ends in a fault or a refusal. Two cases of it are the model's own: with no event
presented the step answers the same state (log entry 4), and a stuck event, which R17 calls a refusal to
proceed, is passed over by a step that answers the block unchanged (log entry 5). -/
def Obligations.EveryEventListRuns : Prop :=
  (∀ s : State, ∃ t, step s = .next t)
  ∧ ∀ (evs : List InEvent) (s : State), ∃ t, runEvents evs s = .next t

/-- R23, R24, R25: who sets and clears `esc` and `ovf`, who changes `acc` and what to; the
parameter and the host's queue are written by no operation, and the trace only grows. -/
def Obligations.EachStateElementHasItsWriters : Prop :=
  ∀ (i : Instr) (s t : State), exec i s = .next t →
    (s.esc = false → t.esc = true → i = .dfEsc)
    ∧ (s.esc = true → t.esc = false →
        i = .dfFlagX ∨ i = .dfEscX ∨ (∃ b, i = .dfDataX b) ∨ i = .dfEoi ∨ i = .dfReset)
    ∧ (s.ovf = false → t.ovf = true →
        (i = .dfFlagX ∨ i = .dfEscX ∨ (∃ b, i = .dfData b ∨ i = .dfDataX b))
        ∧ ∃ n, s.accCap = .bounded n ∧ s.acc.length = n)
    ∧ (s.ovf = true → t.ovf = false → i = .dfReset)
    ∧ (t.acc ≠ s.acc →
        ((i = .dfFlag ∨ i = .dfEoi ∨ i = .dfReset) ∧ t.acc = [])
        ∨ ((i = .dfFlagX ∨ i = .dfEscX ∨ (∃ b, i = .dfData b ∨ i = .dfDataX b))
            ∧ ∃ v, t.acc = s.acc ++ [v]))
    ∧ t.accCap = s.accCap ∧ t.input = s.input ∧ ∃ evs, t.out = s.out ++ evs ∧ evs.length ≤ 1

/-! ## Runs -/

/-- R100: chunking is unobservable. However a byte string is cut, presenting its chunks in turn, each run
before the next, gives the state, trace included, that presenting it whole gives. That a run goes on past
bytes that are stuck, and so answers a state there too, is the model's reading (log entry 5). -/
def Obligations.ChunkingIsUnobservable : Prop :=
  ∀ (s : State) (cs : List (List Byte)), s.input = [] →
    ∃ t, runChunks cs s = .next t
      ∧ runSteps cs.flatten.length (s.present (feed cs.flatten)) = .next t

/-- R101, R43: on every list of events in which `ovf` stays 0 (no fault is raised; with no bound none can
be), the frames emitted are those that the flags of the list complete, and the bytes those frames hold,
the bytes EOI and RESET discard, and then the partial frame are together exactly the bytes that were held
and the bytes appended, in arrival order: none lost, doubled or moved. That a run goes on past events that
are stuck, and so answers a state there too, is the model's reading (log entry 5). -/
def Obligations.BytesAreAccountedForExactly : Prop :=
  ∀ (evs : List InEvent) (s : State), s.ovf = false →
    ∃ t, runEvents evs s = .next t
      ∧ (s.accCap = .unbounded ∨ faultsOf t.out = faultsOf s.out →
        t.ovf = false
        ∧ framesOf t.out = framesOf s.out ++ emittedFrames (fates s.esc s.acc evs)
        ∧ (fates s.esc s.acc evs).flatMap Fate.bytes ++ t.acc = s.acc ++ payload s.esc evs)

/-- R102: the escape round-trip, in every state the rule names; the record is that of R151. -/
def Obligations.EscapeRoundTrip : Prop :=
  ∀ (p : List Byte) (s : State), s.ovf = false → s.esc = false → s.acc = [] →
    (∀ n, s.accCap = .bounded n → p.length ≤ n) →
    runEvents (feedFrame p) s = .next { s with out := s.out ++ frameOutputs p }
    ∧ framesOf (frameOutputs p) = [p]

/-- R103: the frame between two un-escaped flags is the escape resolution of the bytes between them. -/
def Obligations.FrameBetweenTwoFlagsIsTheResolution : Prop :=
  ∀ (s : State) (m r : List Byte), s.ovf = false → s.esc = false →
    resolve false m = some (r, false) → (∀ n, s.accCap = .bounded n → r.length ≤ n) →
    runEvents (feed (0x7E#8 :: m ++ [0x7E#8])) s =
      .next { s with acc := [], out := s.out ++ frameOutputs s.acc ++ frameOutputs r }

/-- R104, R154: the block refines the plain list functions `deframe` and `records`: on `reset; feed bs;
eoi`, from any state with no bound and an empty trace, it emits the one on FRAME_OUT and the other on
REC_OUT, and ends in the reset state. -/
def Obligations.BlockRefinesTheReferenceFunctions : Prop :=
  ∀ (bs : List Byte) (s : State), s.accCap = .unbounded → s.out = [] →
    ∃ t, runEvents (.reset :: feed bs ++ [.eoi]) s = .next t
      ∧ framesOf t.out = deframe bs
      ∧ (recsOf t.out).map some = records bs
      ∧ faultsOf t.out = []
      ∧ t.blockIsReset

/-- R194: every un-escaped flag resynchronises: it leaves the reset state, and whatever the partial
frames and traces before it, the outputs after the flag's own and the state of the block are the
same. -/
def Obligations.FlagResynchronises : Prop :=
  (∀ s t : State, s.esc = false → s.ovf = false → blockStep (.byte 0x7E#8) s = .next t →
    t.esc = false ∧ t.acc = [] ∧ t.ovf = s.ovf)
  ∧ ∀ (s1 s2 t1 t2 : State) (evs : List InEvent),
    s1.esc = false → s2.esc = false → s1.ovf = false → s2.ovf = false → s1.accCap = s2.accCap →
    runEvents (.byte 0x7E#8 :: evs) s1 = .next t1 → runEvents (.byte 0x7E#8 :: evs) s2 = .next t2 →
    t1.esc = t2.esc ∧ t1.acc = t2.acc ∧ t1.ovf = t2.ovf
    ∧ ∃ o, t1.out = s1.out ++ frameOutputs s1.acc ++ o ∧ t2.out = s2.out ++ frameOutputs s2.acc ++ o

/-- R26 (ii): with no bound, every `esc` and every partial frame are reached from reset. -/
def Obligations.EveryPartialFrameIsReachable : Prop :=
  ∀ (e : Bool) (a : Frame), ∃ evs t, runEvents evs State.reset = .next t
    ∧ t.esc = e ∧ t.acc = a ∧ t.ovf = false

/-- R161: an EOI-terminated run that is not stuck ends in the reset state. -/
def Obligations.EoiTerminatedRunEndsInTheResetState : Prop :=
  ∀ (evs : List InEvent) (s t : State), runEvents (evs ++ [.eoi]) s = .next t → t.ovf = false →
    t.blockIsReset

/-! ## Rendering -/

/-- R156: the rendering of a LOG whose fields are printable ASCII, for every legal parameter. -/
def Obligations.PrintableLogRendering : Prop :=
  ∀ (p : RenderParams) (ts : BitVec 32) (ln : BitVec 16) (msg sf : List Byte), p.Legal →
    (∀ b ∈ msg, 0x20 ≤ b.toNat ∧ b.toNat ≤ 0x7E) → (∀ b ∈ sf, 0x20 ≤ b.toNat ∧ b.toNat ≤ 0x7E) →
    ∃ pad, (∀ c ∈ pad, c = ' ') ∧ (pad ++ dec ts.toNat).length = 10
      ∧ render p (.log ts ln msg sf) =
          pad ++ dec ts.toNat ++ [':', ' '] ++ msg.map (fun b => Char.ofNat b.toNat)
            ++ [' ', '('] ++ sf.map (fun b => Char.ofNat b.toNat) ++ [':'] ++ dec ln.toNat ++ [')']
            ++ p.eol

/-- R156 (Dec): the numeral reads back as the number, has only decimal digits, and no leading zero. -/
def Obligations.DecimalNumeralsReadBack : Prop :=
  dec 0 = ['0']
  ∧ ∀ n : Nat, (dec n).foldl (fun a c => 10 * a + (c.toNat - 48)) 0 = n
    ∧ (∀ c ∈ dec n, 48 ≤ c.toNat ∧ c.toNat ≤ 57)
    ∧ (n ≠ 0 → (dec n).head? ≠ some '0')

/-- R157: the rendering of UNREC; `Hex` writes each byte as two digits, most significant nibble first,
of the case chosen, with no separator, so the frame reads back from it. -/
def Obligations.UnrecRenderingIsTheHexDump : Prop :=
  ∀ (p : RenderParams) (f : Frame),
    render p (.unrec f) = "[unknown packet: ".toList ++ hex p.hexCase f ++ "]".toList ++ p.eol
    ∧ hex p.hexCase f =
        (let digits := match p.hexCase with
          | .lower => "0123456789abcdef".toList
          | .upper => "0123456789ABCDEF".toList
        f.flatMap fun b => [digits.getD (b.toNat / 16) '?', digits.getD (b.toNat % 16) '?'])
    ∧ (hex p.hexCase f).length = 2 * f.length
    ∧ ∀ g : Frame, hex p.hexCase f = hex p.hexCase g → f = g

/-- R158: the Sink text grows by one rendering for each REC_OUT event and by nothing for any other. -/
def Obligations.OneRenderingPerRecord : Prop :=
  ∀ (p : RenderParams) (ev : InEvent) (s t : State), blockStep ev s = .next t →
    (recsOf t.out = recsOf s.out ∧ sinkText p t.out = sinkText p s.out)
    ∨ ∃ r, recsOf t.out = recsOf s.out ++ [r] ∧ sinkText p t.out = sinkText p s.out ++ render p r
end

