-- ==== Sys2Proof/Laws/Dispatch.lean ====
section
/-! SUPPORT. What the dispatch answers on the key of each kind of event (spec/30_encoding.md R80), and
the two laws of the byte classes. -/

namespace Sys2Proof

@[simp] theorem byteClass_flag : byteClass 0x7E#8 = .flag := rfl
@[simp] theorem byteClass_esc : byteClass 0x7D#8 = .esc := rfl

theorem byteClass_eq_flag {b : Byte} : byteClass b = .flag ↔ b = Config.flag := by
  unfold byteClass; split
  · simp_all
  · split <;> simp_all

theorem byteClass_eq_esc {b : Byte} : byteClass b = .esc ↔ b = Config.esc := by
  unfold byteClass; split
  · rename_i h; subst h; simp [Config.flag, Config.esc]
  · split <;> simp_all

theorem byteClass_eq_data {b : Byte} :
    byteClass b = .data ↔ b ≠ Config.flag ∧ b ≠ Config.esc := by
  unfold byteClass; split
  · simp_all
  · split <;> simp_all

/-- The `BYTE` rows of R80 with `esc = 0`. -/
theorem decode_key_byte_clear (b : Byte) :
    decode (.key (dispatchKey (.byte b) false)) =
      match byteClass b with
      | .flag => .ok .dfFlag
      | .esc => .ok .dfEsc
      | .data => .ok (.dfData b) := by
  revert b; decide

/-- The `BYTE` rows of R80 with `esc = 1`. -/
theorem decode_key_byte_pending (b : Byte) :
    decode (.key (dispatchKey (.byte b) true)) =
      match byteClass b with
      | .flag => .ok .dfFlagX
      | .esc => .ok .dfEscX
      | .data => .ok (.dfDataX b) := by
  revert b; decide

theorem decode_key_eoi (e : Bool) : decode (.key (dispatchKey .eoi e)) = .ok .dfEoi := by
  cases e <;> decide

theorem decode_key_reset (e : Bool) : decode (.key (dispatchKey .reset e)) = .ok .dfReset := by
  cases e <;> decide

theorem decode_pipe_nil : decode (.pipe []) = .ok .pipeSkip := rfl

theorem decode_pipe_cons (b : Byte) (f : Frame) :
    decode (.pipe (b :: f)) = .ok (.pipeDecode (b :: f)) := rfl

theorem decode_frame_of_valid {f : Frame} (h : valid f = true) :
    decode (.frame f) = .ok (.pdLog f) := by
  simp [decode, decodeFrameCode, h]

theorem decode_frame_of_not_valid {f : Frame} (h : valid f = false) :
    decode (.frame f) = .ok (.pdUnrec f) := by
  simp [decode, decodeFrameCode, h]

end Sys2Proof
end

