-- ==== Sys2Proof/Laws/State.lean ====
section
/-! SUPPORT. One lemma per field per update of the state, each true by rfl. -/

namespace Sys2Proof.Machine.State

variable (s : State) (v : Bool) (f : Frame) (e : OutEvent)

@[simp] theorem setEsc_esc : (s.setEsc v).esc = v := rfl
@[simp] theorem setEsc_acc : (s.setEsc v).acc = s.acc := rfl
@[simp] theorem setEsc_ovf : (s.setEsc v).ovf = s.ovf := rfl
@[simp] theorem setEsc_accCap : (s.setEsc v).accCap = s.accCap := rfl
@[simp] theorem setEsc_input : (s.setEsc v).input = s.input := rfl
@[simp] theorem setEsc_out : (s.setEsc v).out = s.out := rfl

@[simp] theorem setOvf_esc : (s.setOvf v).esc = s.esc := rfl
@[simp] theorem setOvf_acc : (s.setOvf v).acc = s.acc := rfl
@[simp] theorem setOvf_ovf : (s.setOvf v).ovf = v := rfl
@[simp] theorem setOvf_accCap : (s.setOvf v).accCap = s.accCap := rfl
@[simp] theorem setOvf_input : (s.setOvf v).input = s.input := rfl
@[simp] theorem setOvf_out : (s.setOvf v).out = s.out := rfl

@[simp] theorem setAcc_esc : (s.setAcc f).esc = s.esc := rfl
@[simp] theorem setAcc_acc : (s.setAcc f).acc = f := rfl
@[simp] theorem setAcc_ovf : (s.setAcc f).ovf = s.ovf := rfl
@[simp] theorem setAcc_accCap : (s.setAcc f).accCap = s.accCap := rfl
@[simp] theorem setAcc_input : (s.setAcc f).input = s.input := rfl
@[simp] theorem setAcc_out : (s.setAcc f).out = s.out := rfl

@[simp] theorem emit_esc : (s.emit e).esc = s.esc := rfl
@[simp] theorem emit_acc : (s.emit e).acc = s.acc := rfl
@[simp] theorem emit_ovf : (s.emit e).ovf = s.ovf := rfl
@[simp] theorem emit_accCap : (s.emit e).accCap = s.accCap := rfl
@[simp] theorem emit_input : (s.emit e).input = s.input := rfl
@[simp] theorem emit_out : (s.emit e).out = s.out ++ [e] := rfl

end Sys2Proof.Machine.State

namespace Sys2Proof.Machine

variable (b : Byte) (s : State)

@[simp] theorem raiseOverflow_esc : (raiseOverflow b s).esc = s.esc := rfl
@[simp] theorem raiseOverflow_acc : (raiseOverflow b s).acc = s.acc := rfl
@[simp] theorem raiseOverflow_ovf : (raiseOverflow b s).ovf = true := rfl
@[simp] theorem raiseOverflow_accCap : (raiseOverflow b s).accCap = s.accCap := rfl
@[simp] theorem raiseOverflow_input : (raiseOverflow b s).input = s.input := rfl
@[simp] theorem raiseOverflow_out :
    (raiseOverflow b s).out = s.out ++ [.faultOut (.overflow ⟨b, s.acc.length⟩)] := rfl

end Sys2Proof.Machine
end

