-- ==== Sys2Proof/Laws/Ops.lean ====
section
/-! SUPPORT. One lemma per shared operation that says everything it can answer. -/

namespace Sys2Proof.Machine

variable {s t : State}

theorem appendThen_of_full {v : Byte} {rest : State → State} (h : accFull s = true) :
    appendThen v rest s = .next (raiseOverflow v s) := if_pos h

theorem appendThen_of_room {v : Byte} {rest : State → State} (h : accFull s = false) :
    appendThen v rest s = .next (rest (s.setAcc (s.acc ++ [v]))) := by
  simp [appendThen, h]

theorem appendThen_next {v : Byte} {rest : State → State} (h : appendThen v rest s = .next t) :
    (accFull s = true ∧ t = raiseOverflow v s) ∨
      (accFull s = false ∧ t = rest (s.setAcc (s.acc ++ [v]))) := by
  cases hf : accFull s with
  | true => rw [appendThen_of_full hf] at h; cases h; exact .inl ⟨rfl, rfl⟩
  | false => rw [appendThen_of_room hf] at h; cases h; exact .inr ⟨rfl, rfl⟩

/-- An appending operation always completes: Overflow is a next state. -/
theorem appendThen_completes (v : Byte) (rest : State → State) (s : State) :
    ∃ t, appendThen v rest s = .next t := by
  cases hf : accFull s with
  | true => exact ⟨_, appendThen_of_full hf⟩
  | false => exact ⟨_, appendThen_of_room hf⟩

theorem whenSelected_of {e : Bool} {r : Result} (ho : s.ovf = false) (he : s.esc = e) :
    whenSelected e s r = r := by
  simp [whenSelected, ho, he]

theorem whenSelected_stuck {e : Bool} {r : Result} (ho : s.ovf = true) :
    whenSelected e s r = .refused .stuck := by
  simp [whenSelected, ho]

theorem whenSelected_other {e : Bool} {r : Result} (ho : s.ovf = false) (he : ¬ s.esc = e) :
    whenSelected e s r = .refused .notSelected := by
  simp [whenSelected, ho, he]

theorem whenSelected_next {e : Bool} {r : Result} (h : whenSelected e s r = .next t) :
    s.ovf = false ∧ s.esc = e ∧ r = .next t := by
  by_cases ho : s.ovf = true
  · rw [whenSelected_stuck ho] at h; cases h
  · rw [Bool.not_eq_true] at ho
    by_cases he : s.esc = e
    · rw [whenSelected_of ho he] at h; exact ⟨ho, he, h⟩
    · rw [whenSelected_other ho he] at h; cases h

theorem deliver_some (r : RecResult) (s : State) :
    deliver (some r) s = .next (s.emit (.recOut r)) := rfl

theorem deliver_next {r : Option RecResult} (h : deliver r s = .next t) :
    ∃ x, r = some x ∧ t = s.emit (.recOut x) := by
  cases r with
  | none => cases h
  | some x => cases h; exact ⟨x, rfl, rfl⟩

end Sys2Proof.Machine
end

