-- ==== Sys2Proof/Laws/Block.lean ====
section
/-! SUPPORT. What one step of the block does on each kind of event, once: later proofs cite these
equations and the inversion, and unfold neither `blockStep` nor the dispatch. -/

namespace Sys2Proof.Machine

variable {s : State} {b : Byte}

/-- The state in which DF.FLAG leaves the block before the composition runs (R92). -/
def State.closeFrame (s : State) : State := (s.emit (.frameOut s.acc)).setAcc []

@[simp] theorem closeFrame_esc (s : State) : s.closeFrame.esc = s.esc := rfl
@[simp] theorem closeFrame_acc (s : State) : s.closeFrame.acc = [] := rfl
@[simp] theorem closeFrame_ovf (s : State) : s.closeFrame.ovf = s.ovf := rfl
@[simp] theorem closeFrame_accCap (s : State) : s.closeFrame.accCap = s.accCap := rfl
@[simp] theorem closeFrame_input (s : State) : s.closeFrame.input = s.input := rfl
@[simp] theorem closeFrame_out (s : State) : s.closeFrame.out = s.out ++ [.frameOut s.acc] := rfl

theorem emittedFrame_of_out_eq {t : State} (h : t.out = s.out) : emittedFrame s t = none := by
  simp [emittedFrame, h]

theorem emittedFrame_closeFrame (s : State) : emittedFrame s s.closeFrame = some s.acc := by
  simp [emittedFrame]

theorem emittedFrame_raiseOverflow (v : Byte) (s : State) :
    emittedFrame s (raiseOverflow v s) = none := by
  simp [emittedFrame]

/-- An operation that emits no frame is the whole of the step. -/
theorem runOperation_of_no_frame {i : Instr} {t : State} (h : exec i s = .next t)
    (hf : emittedFrame s t = none) : runOperation i s = .next t := by
  simp [runOperation, h, hf]

theorem runOperation_appendThen {i : Instr} {v : Byte} {rest : State → State}
    (hi : exec i s = appendThen v rest s) (hrest : ∀ u : State, (rest u).out = u.out) :
    runOperation i s = appendThen v rest s := by
  cases hf : accFull s with
  | true =>
    rw [appendThen_of_full hf] at hi ⊢
    exact runOperation_of_no_frame hi (emittedFrame_raiseOverflow v s)
  | false =>
    rw [appendThen_of_room hf] at hi ⊢
    exact runOperation_of_no_frame hi (emittedFrame_of_out_eq (by rw [hrest]; rfl))

theorem stuckOn_reset (s : State) : stuckOn .reset s = false := by simp [stuckOn, InEvent.isReset]

theorem stuckOn_of_clear {ev : InEvent} (h : s.ovf = false) : stuckOn ev s = false := by
  simp [stuckOn, h]

theorem stuckOn_of_set {ev : InEvent} (h : s.ovf = true) (he : ev ≠ .reset) :
    stuckOn ev s = true := by
  cases ev <;> simp_all [stuckOn, InEvent.isReset]

theorem blockStep_stuck {ev : InEvent} (h : s.ovf = true) (he : ev ≠ .reset) :
    blockStep ev s = .next s := if_pos (stuckOn_of_set h he)

theorem blockStep_of_decode {ev : InEvent} {i : Instr} (h : stuckOn ev s = false)
    (hd : decode (.key (dispatchKey ev s.esc)) = .ok i) : blockStep ev s = runOperation i s := by
  simp [blockStep, h, hd]

theorem blockStep_reset (s : State) :
    blockStep .reset s = .next (((s.setAcc []).setEsc false).setOvf false) := by
  rw [blockStep_of_decode (stuckOn_reset s) (decode_key_reset s.esc)]
  exact runOperation_of_no_frame rfl (emittedFrame_of_out_eq rfl)

theorem blockStep_eoi (h : s.ovf = false) :
    blockStep .eoi s = .next ((s.setAcc []).setEsc false) := by
  rw [blockStep_of_decode (stuckOn_of_clear h) (decode_key_eoi s.esc)]
  exact runOperation_of_no_frame (by simp [exec, execDfEoi, h]) (emittedFrame_of_out_eq rfl)

/-- An un-escaped flag: the frame, then the composition (R92, R152). -/
theorem blockStep_flag (h : s.ovf = false) (he : s.esc = false) :
    blockStep (.byte Config.flag) s = exec (decodePipeCode s.acc) s.closeFrame := by
  have hd : decode (.key (dispatchKey (.byte Config.flag) s.esc)) = .ok .dfFlag := by
    rw [he, decode_key_byte_clear]; rfl
  have hx : exec .dfFlag s = .next s.closeFrame := whenSelected_of h he
  rw [blockStep_of_decode (stuckOn_of_clear h) hd]
  simp [runOperation, hx, emittedFrame_closeFrame]

/-- An un-escaped escape byte (R94). -/
theorem blockStep_esc (h : s.ovf = false) (he : s.esc = false) :
    blockStep (.byte Config.esc) s = .next (s.setEsc true) := by
  have hd : decode (.key (dispatchKey (.byte Config.esc) s.esc)) = .ok .dfEsc := by
    rw [he, decode_key_byte_clear]; rfl
  rw [blockStep_of_decode (stuckOn_of_clear h) hd]
  exact runOperation_of_no_frame (whenSelected_of h he) (emittedFrame_of_out_eq rfl)

/-- A data byte with no escape pending (R96). -/
theorem blockStep_data (h : s.ovf = false) (he : s.esc = false) (hb : byteClass b = .data) :
    blockStep (.byte b) s = appendThen b id s := by
  have hd : decode (.key (dispatchKey (.byte b) s.esc)) = .ok (.dfData b) := by
    rw [he, decode_key_byte_clear, hb]
  rw [blockStep_of_decode (stuckOn_of_clear h) hd]
  refine runOperation_appendThen ?_ fun _ => rfl
  rw [show exec (.dfData b) s = _ from whenSelected_of h he, if_pos hb]

/-- Any byte while an escape is pending: flag, escape byte and data alike (R93, R95, R97). -/
theorem blockStep_pending (h : s.ovf = false) (he : s.esc = true) :
    blockStep (.byte b) s = appendThen (unescape b) (·.setEsc false) s := by
  have hk := decode_key_byte_pending b
  rw [← he] at hk
  cases hb : byteClass b with
  | flag =>
    rw [hb] at hk
    rw [blockStep_of_decode (stuckOn_of_clear h) hk, byteClass_eq_flag.mp hb]
    exact runOperation_appendThen (whenSelected_of h he) fun _ => rfl
  | esc =>
    rw [hb] at hk
    rw [blockStep_of_decode (stuckOn_of_clear h) hk, byteClass_eq_esc.mp hb]
    exact runOperation_appendThen (whenSelected_of h he) fun _ => rfl
  | data =>
    rw [hb] at hk
    rw [blockStep_of_decode (stuckOn_of_clear h) hk]
    refine runOperation_appendThen ?_ fun _ => rfl
    rw [show exec (.dfDataX b) s = _ from whenSelected_of h he, if_pos hb]

theorem takeEvent_nil (h : s.input = []) : takeEvent s = .next s := by simp [takeEvent, h]

theorem takeEvent_cons {ev : InEvent} {rest : List InEvent} (h : s.input = ev :: rest) :
    takeEvent s = blockStep ev { s with input := rest } := by simp [takeEvent, h]

theorem runEvents_cons_of_next {ev : InEvent} {evs : List InEvent} {t : State}
    (h : blockStep ev s = .next t) : runEvents (ev :: evs) s = runEvents evs t := by
  simp [runEvents, h]

theorem runSteps_succ_of_next {k : Nat} {t : State} (h : takeEvent s = .next t) :
    runSteps (k + 1) s = runSteps k t := by
  simp [runSteps, h]

end Sys2Proof.Machine
end

