-- ==== Sys2Proof/Laws/Operands.lean ====
section
/-! SUPPORT. What the reads of the frame space and the gate say, once. -/

namespace Sys2Proof

theorem memRead_of_le {f : Frame} {off n : Nat} (h : off + n ≤ f.length) :
    memRead f off n = some (littleEndian ((f.drop off).take n)) := if_pos h

theorem memRead_eq_none {f : Frame} {off n : Nat} (h : ¬ off + n ≤ f.length) :
    memRead f off n = none := if_neg h

theorem littleEndian_lt (bs : List Byte) : littleEndian bs < 2 ^ (8 * bs.length) := by
  induction bs with
  | nil => simp [littleEndian]
  | cons b bs ih =>
    have hb : b.toNat < 2 ^ 8 := b.isLt
    have hpow : 2 ^ (8 * (b :: bs).length) = 2 ^ 8 * 2 ^ (8 * bs.length) := by
      rw [List.length_cons, Nat.mul_succ, Nat.add_comm, Nat.pow_add]
    rw [hpow, littleEndian]
    omega

/-- The gate's length test: what makes every read of the decoder lie inside the frame (R41). -/
theorem minLen_le_of_valid {f : Frame} (h : valid f = true) : 24 ≤ f.length := by
  simp only [valid, Config.minLen, Bool.and_eq_true, decide_eq_true_eq] at h
  exact h.1

theorem valid_iff (f : Frame) :
    valid f = true ↔ 24 ≤ f.length ∧ f[0]? = some 0x79#8 ∧ f[2]? = some 0x00#8 := by
  simp [valid, Config.minLen, Config.magic0, Config.magic2, frameByte]

namespace Machine

theorem decodeFrame_of_valid {f : Frame} (h : valid f = true) : decodeFrame f = pdLog f := if_pos h

theorem decodeFrame_of_not_valid {f : Frame} (h : ¬ valid f = true) :
    decodeFrame f = some (.unrec f) := if_neg h

end Machine

end Sys2Proof
end

