-- ==== Sys2Proof/Laws/PerInstr.lean ====
section
/-! SUPPORT. Statements made per operation. Family `TableRow`: the code an operation is encoded to meets
the match, mask, exclusions and condition of the operation's own row of spec/opcode_table.json. -/

namespace Sys2Proof.Laws.TableRow

/-- The row of spec/opcode_table.json for the operation's mnemonic accepts the code. -/
def accepts (i : Instr) (c : Code) : Bool :=
  match i, c with
  | .dfReset, .key k => k &&& 0x2FF#10 == 0x201#10
  | .dfEoi, .key k => k &&& 0x2FF#10 == 0x200#10
  | .dfFlag, .key k => k == 0x07E#10
  | .dfFlagX, .key k => k == 0x17E#10
  | .dfEsc, .key k => k == 0x07D#10
  | .dfEscX, .key k => k == 0x17D#10
  | .dfData _, .key k => k &&& 0x300#10 == 0x000#10 && k != 0x07D#10 && k != 0x07E#10
  | .dfDataX _, .key k => k &&& 0x300#10 == 0x100#10 && k != 0x17D#10 && k != 0x17E#10
  | .pdLog _, .frame g => valid g
  | .pdUnrec _, .frame g => !valid g
  | .pipeSkip, .pipe g => g.length == 0
  | .pipeDecode _, .pipe g => decide (1 ≤ g.length)
  | _, _ => false

def Statement (i : Instr) : Prop := WellFormed i → accepts i (encode i) = true

theorem dfReset : Statement .dfReset := fun _ => by decide
theorem dfEoi : Statement .dfEoi := fun _ => by decide
theorem dfFlag : Statement .dfFlag := fun _ => by decide
theorem dfFlagX : Statement .dfFlagX := fun _ => by decide
theorem dfEsc : Statement .dfEsc := fun _ => by decide
theorem dfEscX : Statement .dfEscX := fun _ => by decide

theorem dfData (b : Byte) : Statement (.dfData b) := by
  unfold Statement WellFormed
  revert b; decide

theorem dfDataX (b : Byte) : Statement (.dfDataX b) := by
  unfold Statement WellFormed
  revert b; decide

theorem pdLog (f : Frame) : Statement (.pdLog f) := id
theorem pdUnrec (f : Frame) : Statement (.pdUnrec f) := id
theorem pipeSkip : Statement .pipeSkip := fun _ => by decide

theorem pipeDecode (f : Frame) : Statement (.pipeDecode f) := by
  intro h
  cases f with
  | nil => cases h
  | cons b f => simp [accepts, encode]

end Sys2Proof.Laws.TableRow
end

