-- ==== Sys2Proof/Tests/Slice0.lean ====
section
/-! SUPPORT. Tests: the encodings, the refusals of WellFormed, one step per operation on the vectors of
spec/95_test_vectors.md, and a witness of the hypotheses of each statement. Expected values are the
spec's (W1 to W9, V1 to V49) or written out by hand from the rule named. -/

namespace Sys2Proof.Tests

open Sys2Proof.Machine

/-- The next state, where there is one. -/
def nextOf : Result → Option State
  | .next s => some s
  | .fault _ => none
  | .refused _ => none

/-- The refusal, where there is one. -/
def refusalOf : Result → Option Refusal
  | .next _ => none
  | .fault _ => none
  | .refused r => some r

/-- `(esc, acc)` with `ovf = 0`, as the vectors write a state; no event presented, no output yet. -/
def st (esc : Bool) (acc : Frame) : State := { State.reset with esc := esc, acc := acc }

/-- `(esc, acc)` with `ACC_CAP = 4` (section 2.5). -/
def st4 (esc : Bool) (acc : Frame) : State := { st esc acc with accCap := .bounded 4 }

/-- `HDR(ts, ln)` of spec/95_test_vectors.md, the little-endian bytes given. -/
def hdr (t0 t1 t2 t3 l0 l1 : Byte) : Frame :=
  [0x79, 0, 0, 0, 0, 0, t0, t1, t2, t3, 0, 0, l0, l1, 0, 0, 0, 0, 0, 0]

/-- W1's frame. -/
def w1 : Frame :=
  hdr 0x01 0 0 0 0x2A 0
    ++ [0x68, 0x65, 0x6C, 0x6C, 0x6F, 0x0A, 0x00, 0x6D, 0x61, 0x69, 0x6E, 0x2E, 0x63, 0x00]

/-- V26's frame, 24 bytes. -/
def v26 : Frame := hdr 0 0 0 0 0 0 ++ [0x61, 0x62, 0x63, 0x64]

/-! ## Decoding: words written out from the spec's encodings -/

/-- R80: K = 0b0_0_01111110, 0b0_1_01111110, 0b0_0_01111101, 0b0_1_01111101. -/
theorem test_decode_flag_and_escape_rows :
    decode (.key 0b0001111110#10) = .ok .dfFlag ∧ decode (.key 0b0101111110#10) = .ok .dfFlagX
    ∧ decode (.key 0b0001111101#10) = .ok .dfEsc ∧ decode (.key 0b0101111101#10) = .ok .dfEscX := by
  decide

/-- R96, R97: K[9:8] = 0b00 or 0b01 and K[7:0] = b; the bytes beside 0x7D and 0x7E, and the ends. -/
theorem test_decode_data_rows :
    decode (.key 0b0001111100#10) = .ok (.dfData 0x7C)
    ∧ decode (.key 0b0001111111#10) = .ok (.dfData 0x7F)
    ∧ decode (.key 0b0000000000#10) = .ok (.dfData 0x00)
    ∧ decode (.key 0b0111111111#10) = .ok (.dfDataX 0xFF) := by
  decide

/-- R98, R99, D25: K = 0x200 or 0x300, 0x201 or 0x301; 0x202 and 0x3FF are reserved. -/
theorem test_decode_control_rows :
    decode (.key 0x300#10) = .ok .dfEoi ∧ decode (.key 0x301#10) = .ok .dfReset
    ∧ decode (.key 0x202#10) = .rejected .reservedControlCode
    ∧ decode (.key 0x3FF#10) = .rejected .reservedControlCode := by
  decide

/-- R81: W1 passes the gate; V25 (23 bytes) does not. -/
theorem test_decode_frame_rows :
    decode (.frame w1) = .ok (.pdLog w1)
    ∧ decode (.frame (v26.take 23)) = .ok (.pdUnrec (v26.take 23)) := by
  decide

/-- R82. -/
theorem test_decode_pipe_rows :
    decode (.pipe []) = .ok .pipeSkip ∧ decode (.pipe [0xAA]) = .ok (.pipeDecode [0xAA]) := by
  decide

/-- The words of spec/opcode_table.json ("match"), by row, as log entry 9 reads a table word, and one that
no row has. -/
theorem test_table_words :
    decodeTableWord 16 0x201 = some .dfReset ∧ decodeTableWord 16 0x200 = some .dfEoi
    ∧ decodeTableWord 16 0x17E = some .dfFlagX ∧ decodeTableWord 16 0x100 = some (.dfDataX 0x00)
    ∧ decodeTableWord 24 0x790000 = some (.pdLog (0x79#8 :: List.replicate 23 0x00#8))
    ∧ decodeTableWord 24 0x790001 = some (.pdUnrec (0x79#8 :: 0 :: 1 :: List.replicate 21 0x00#8))
    ∧ decodeTableWord 16 0x7E7E = none := by
  decide

/-! ## WellFormed: an ill-formed term for each check -/

theorem test_wf_data_refuses_flag : ¬ WellFormed (.dfData 0x7E) := by decide
theorem test_wf_data_refuses_escape : ¬ WellFormed (.dfData 0x7D) := by decide
theorem test_wf_dataX_refuses_flag : ¬ WellFormed (.dfDataX 0x7E) := by decide
theorem test_wf_dataX_refuses_escape : ¬ WellFormed (.dfDataX 0x7D) := by decide
theorem test_wf_log_refuses_short_frame : ¬ WellFormed (.pdLog (v26.take 23)) := by decide
theorem test_wf_log_refuses_bad_magic0 : ¬ WellFormed (.pdLog (v26.set 0 0x78)) := by decide
theorem test_wf_log_refuses_bad_magic2 : ¬ WellFormed (.pdLog (v26.set 2 0x01)) := by decide
theorem test_wf_unrec_refuses_valid_frame : ¬ WellFormed (.pdUnrec v26) := by decide
theorem test_wf_decode_refuses_empty_frame : ¬ WellFormed (.pipeDecode []) := by decide

/-! ## One step per operation -/

/-- V1. -/
theorem test_flag_emits_frame :
    nextOf (exec .dfFlag (st false [0x41, 0x42])) =
      some { st false [] with out := [.frameOut [0x41, 0x42]] } := by decide

/-- V48: a flag never overflows. -/
theorem test_flag_at_full_accumulator :
    nextOf (step ((st4 false [1, 2, 3, 4]).present [.byte 0x7E])) =
      some { st4 false [] with out := [.frameOut [1, 2, 3, 4], .recOut (.unrec [1, 2, 3, 4])] } := by
  decide

/-- V3. -/
theorem test_flagX_is_data : nextOf (exec .dfFlagX (st true [0x01])) = some (st false [0x01, 0x5E]) := by
  decide

/-- R93, R172: `esc` stays 1 when Overflow is raised, and the byte reported is the resolved one. -/
theorem test_flagX_overflows :
    nextOf (exec .dfFlagX (st4 true [1, 2, 3, 4])) =
      some { st4 true [1, 2, 3, 4] with ovf := true, out := [.faultOut (.overflow ⟨0x5E, 4⟩)] } := by
  decide

/-- V4. -/
theorem test_esc_arms : nextOf (exec .dfEsc (st false [0x01])) = some (st true [0x01]) := by decide

/-- V5. -/
theorem test_escX_clears : nextOf (exec .dfEscX (st true [])) = some (st false [0x5D]) := by decide

/-- V6: 0x5E is data. -/
theorem test_data_verbatim : nextOf (exec (.dfData 0x5E) (st false [])) = some (st false [0x5E]) := by
  decide

/-- V46. -/
theorem test_data_overflows :
    nextOf (step ((st4 false [1, 2, 3, 4]).present [.byte 0x05])) =
      some { st4 false [1, 2, 3, 4] with ovf := true, out := [.faultOut (.overflow ⟨0x05, 4⟩)] } := by
  decide

/-- V9. -/
theorem test_dataX_xors : nextOf (exec (.dfDataX 0x5E) (st true [0xAA])) = some (st false [0xAA, 0x7E]) := by
  decide

/-- V47. -/
theorem test_dataX_overflows :
    nextOf (step ((st4 true [1, 2, 3, 4]).present [.byte 0x5E])) =
      some { st4 true [1, 2, 3, 4] with ovf := true, out := [.faultOut (.overflow ⟨0x7E, 4⟩)] } := by
  decide

/-- V15. -/
theorem test_eoi_discards : nextOf (exec .dfEoi (st true [0x79, 0x00])) = some (st false []) := by decide

/-- V49: a stuck EOI changes nothing and gives no output. -/
theorem test_eoi_stuck :
    nextOf (step ({ st4 true [1, 2] with ovf := true }.present [.eoi])) =
      some { st4 true [1, 2] with ovf := true } := by decide

/-- V17. -/
theorem test_reset_recovers :
    nextOf (exec .dfReset { st true [0x01, 0x02] with ovf := true }) = some (st false []) := by decide

/-- W1. -/
theorem test_log_w1 :
    nextOf (exec (.pdLog w1) (st false [])) =
      some { st false [] with
        out := [.recOut (.log 1 42 [0x68, 0x65, 0x6C, 0x6C, 0x6F] [0x6D, 0x61, 0x69, 0x6E, 0x2E, 0x63])] } := by
  decide

/-- V32: little-endian order; 0x0D kept; the file not stripped; the third part discarded. -/
theorem test_log_v32 :
    decodeFrame (hdr 0x12 0x34 0x56 0x78 0x34 0x12
        ++ [0x61, 0x0D, 0x0A, 0x00, 0x62, 0x0A, 0x00, 0x7A, 0x7A]) =
      some (.log 2018915346 4660 [0x61, 0x0D] [0x62, 0x0A]) := by decide

/-- W2, V29: byte 2 is not 0x00. -/
theorem test_unrec_bad_magic2 :
    nextOf (exec (.pdUnrec (v26.set 2 0x01)) (st false [])) =
      some { st false [] with out := [.recOut (.unrec (v26.set 2 0x01))] } := by decide

/-- R122: PD.LOG is not the row of a frame that fails the gate. -/
theorem test_log_not_selected :
    refusalOf (exec (.pdLog (v26.set 0 0x78)) (st false [])) = some .notSelected := by decide

/-- W3, R150: an un-escaped flag on an empty accumulator. -/
theorem test_skip_empty_frame :
    nextOf (step (State.reset.present [.byte 0x7E])) = some { st false [] with out := [.frameOut []] } := by
  decide

/-- V38, through the table word of the PIPE row: a 1-byte frame is decoded, to UNREC. -/
theorem test_decode_one_byte_frame :
    nextOf (step (State.reset.withFetchWord 8 0xAA)) =
      some { st false [] with out := [.frameOut [0xAA], .recOut (.unrec [0xAA])] } := by decide

/-- The table word of PD.LOG (match 0x790000): the very next step runs it. -/
theorem test_table_word_of_log_runs :
    nextOf (step (State.reset.withFetchWord 24 0x790000)) =
      some { st false [] with
        out := [.frameOut (0x79#8 :: List.replicate 23 0x00#8), .recOut (.log 0 0 [] [])] } := by decide

/-- The table word of DF.DATA_X (match 0x100): `esc` is K[8], and 0x00 XOR 0x20 is appended. -/
theorem test_table_word_of_dataX_runs :
    nextOf (step (State.reset.withFetchWord 16 0x100)) = some (st false [0x20]) := by decide

/-! ## The reference functions -/

/-- W6: the source's own escaped constant. -/
theorem test_escape_w6 :
    escape [0x7D, 0x04, 0x34, 0x21, 0x34, 0x21, 0x00, 0x00, 0x1F, 0x00, 0x00, 0x00, 0xAB, 0xDF] =
      [0x7D, 0x5D, 0x04, 0x34, 0x21, 0x34, 0x21, 0x00, 0x00, 0x1F, 0x00, 0x00, 0x00, 0xAB, 0xDF, 0x7E] := by
  decide

/-- V18 (90_conflicts.md C3) and W7. -/
theorem test_deframe :
    deframe [0x7D, 0x7D, 0x41, 0x7E] = [[0x5D, 0x41]]
    ∧ deframe [0x7E, 0x41, 0x7D, 0x5E, 0x42, 0x7E] = [[], [0x41, 0x7E, 0x42]] := by decide

/-- R101 on `41 7E 42 EOI 7D 7E RESET 43` after a partial frame 01, by hand. -/
theorem test_fates :
    fates false [1] [.byte 0x41, .byte 0x7E, .byte 0x42, .eoi, .byte 0x7D, .byte 0x7E, .reset, .byte 0x43]
        = [.emitted [1, 0x41], .discarded [0x42], .discarded [0x5E]]
    ∧ payload false [.byte 0x41, .byte 0x7E, .byte 0x42, .eoi, .byte 0x7D, .byte 0x7E, .reset, .byte 0x43]
        = [0x41, 0x42, 0x5E, 0x43] := by decide

/-- Parameters for the rendering tests: `TEXT_MAP` byte by byte, `EOL` one 0x0A. -/
def params (c : HexCase) : RenderParams :=
  { hexCase := c, textMap := fun bs => bs.map fun b => Char.ofNat b.toNat, eol := [Char.ofNat 10] }

/-- V42. -/
theorem test_render_log :
    render (params .lower) (.log 8192126 126 [0x62, 0x6F, 0x6F, 0x74] [0x69, 0x2E, 0x63]) =
      "   8192126: boot (i.c:126)\n".toList := by decide

/-- V43. -/
theorem test_render_unrec :
    render (params .lower) (.unrec [0xAB]) = "[unknown packet: ab]\n".toList
    ∧ render (params .upper) (.unrec [0xAB]) = "[unknown packet: AB]\n".toList := by decide

/-! ## Witnesses: for each statement with hypotheses, states and operands that meet them together -/

theorem witness_DispatchFollowsTheKeyTable :
    ((0x202#10).getLsbD 9 = true ∧ 2 ≤ ((0x202#10).setWidth 8).toNat)
    ∧ ((0x3FF#10).getLsbD 9 = true ∧ 2 ≤ ((0x3FF#10).setWidth 8).toNat)
    ∧ { st false [] with ovf := true }.ovf = true ∧ InEvent.eoi ≠ .reset := by decide

/-- Also of LogFrameDecodesToItsRecord, DecoderIsTotal and DecoderOperationsEmitTheirResult. -/
theorem witness_FramesAreClassifiedByGateAndLength :
    (24 ≤ v26.length ∧ v26[0]? = some 0x79#8 ∧ v26[2]? = some 0x00#8 ∧ v26.length = 24)
    ∧ ¬ (24 ≤ (v26.take 23).length ∧ (v26.take 23)[0]? = some 0x79#8 ∧ (v26.take 23)[2]? = some 0x00#8)
    ∧ [0xAA#8] ≠ [] := by decide

theorem witness_DecodeOfEncodeIsTheOperation :
    WellFormed (.dfData 0x7C) ∧ WellFormed (.dfDataX 0x7F) ∧ WellFormed (.pdLog v26)
    ∧ WellFormed (.pdUnrec []) ∧ WellFormed (.pipeDecode [0x00]) := by decide

theorem witness_EncodeOfDecodeIsTheCode :
    decode (.key 0x301#10) = .ok .dfReset ∧ decode (.frame v26) = .ok (.pdLog v26)
    ∧ decode (.pipe []) = .ok .pipeSkip := by decide

/-- The hypotheses of FlagEmitsTheAccumulatorAsAFrame, EscapeByteSetsEscapePending,
DataByteIsAppendedVerbatim, EndOfInputDiscardsThePartialFrame, EveryEscapePairIsLegal and the first
clause of OverflowIsPreciseAndTheOnlyFault: with room (one byte below the bound) and at the bound. -/
theorem witness_operations_with_esc_clear :
    (st4 false [1, 2, 3]).ovf = false ∧ (st4 false [1, 2, 3]).esc = false
    ∧ (∀ n, (st4 false [1, 2, 3]).accCap = .bounded n → (st4 false [1, 2, 3]).acc.length ≠ n)
    ∧ (st4 false [1, 2, 3, 4]).accCap = .bounded 4 ∧ (st4 false [1, 2, 3, 4]).acc.length = 4
    ∧ (0x7C#8 ≠ 0x7D#8 ∧ 0x7C#8 ≠ 0x7E#8) :=
  ⟨rfl, rfl, fun n h => by cases h; decide, rfl, rfl, by decide⟩

/-- The hypotheses of EscapedFlagAppends5E, EscapedEscapeAppends5D and EscapedDataByteIsXoredAndAppended:
with room, with no bound, and at the bound. -/
theorem witness_operations_with_esc_pending :
    (st4 true [1, 2, 3]).ovf = false ∧ (st4 true [1, 2, 3]).esc = true
    ∧ (∀ n, (st4 true [1, 2, 3]).accCap = .bounded n → (st4 true [1, 2, 3]).acc.length ≠ n)
    ∧ (∀ n, (st true []).accCap = .bounded n → (st true []).acc.length ≠ n)
    ∧ (st4 true [1, 2, 3, 4]).accCap = .bounded 4 ∧ (st4 true [1, 2, 3, 4]).acc.length = 4
    ∧ (0x7F#8 ≠ 0x7D#8 ∧ 0x7F#8 ≠ 0x7E#8) :=
  ⟨rfl, rfl, fun n h => by cases h; decide, fun n h => (by cases h), rfl, rfl, by decide⟩

theorem witness_ResetLeavesTheResetState :
    exec .dfReset { st true [1] with ovf := true } = .next (st false []) := rfl

theorem witness_UnselectedOperationsAreRefused :
    { st true [1] with ovf := true }.ovf = true
    ∧ ((st true [1]).ovf = false ∧ (st true [1]).esc = true)
    ∧ ((st false [1]).ovf = false ∧ (st false [1]).esc = false)
    ∧ ¬ WellFormed (.dfData 0x7E) := by decide

/-- A fault is raised, and an operation with none. -/
theorem witness_OverflowIsPreciseAndTheOnlyFault :
    exec (.dfData 5) (st4 false [1, 2, 3, 4]) =
        .next { st4 false [1, 2, 3, 4] with ovf := true, out := [.faultOut (.overflow ⟨5, 4⟩)] }
    ∧ exec .dfEsc (st false []) = .next (st true []) := ⟨rfl, rfl⟩

theorem witness_FaultedBlockIsStuckUntilReset :
    { st4 true [1, 2, 3, 4] with ovf := true }.ovf = true
    ∧ InEvent.reset ∉ [InEvent.byte 0x7E, .eoi] := by decide

theorem witness_UnboundedAccumulatorNeverFaults :
    (st true [1]).accCap = .unbounded ∧ (st true [1]).ovf = false := ⟨rfl, rfl⟩

theorem witness_MemReadIsLittleEndian :
    20 + 4 ≤ v26.length ∧ ¬ 21 + 4 ≤ v26.length := by decide

/-- R131's frames are those of `valid`; the gate of the other decoder statements is the witness of
FramesAreClassifiedByGateAndLength. -/
theorem witness_valid_frames : valid v26 = true ∧ valid (v26.take 23) = false := by decide

/-- The trailer's three forms: no separator, one, two; and the empty trailer parts. -/
theorem witness_TrailerIsSplitAtItsFirstTwoSeparators :
    (0x00#8 ∉ [0x61#8, 0x0A#8] ∧ 0x00#8 ∉ [0x66#8])
    ∧ (hdr 0 0 0 0 0 0 ++ [0x61, 0x0A]).drop 20 = [0x61#8, 0x0A#8]
    ∧ (hdr 0 0 0 0 0 0 ++ [0x61, 0x0A, 0x00, 0x66]).drop 20 = [0x61#8, 0x0A#8] ++ 0x00#8 :: [0x66#8]
    ∧ (hdr 0 0 0 0 0 0 ++ [0x61, 0x0A, 0x00, 0x66, 0x00]).drop 20
        = [0x61#8, 0x0A#8] ++ 0x00#8 :: ([0x66#8] ++ 0x00#8 :: [])
    ∧ (hdr 0 0 0 0 0 0 ++ [0x00]).drop 20 = [] ++ 0x00#8 :: [] := by decide

/-- SplitIsAtTheFirstSeparator: the separator first, and further on. -/
theorem witness_SplitIsAtTheFirstSeparator :
    0x00#8 ∉ ([] : List Byte) ∧ 0x00#8 ∉ [0x61#8] := by decide

theorem witness_DecodedFieldsAreBounded :
    decodeFrame v26 = some (.log 0 0 [0x61, 0x62, 0x63, 0x64] [])
    ∧ decodeFrame [0xAA] = some (.unrec [0xAA]) := by decide

theorem witness_UnreadHeaderBytesHaveNoEffect :
    valid v26 = true ∧ valid (v26.set 19 0xEE) = true ∧ v26.length = (v26.set 19 0xEE).length
    ∧ ∀ k, k ∉ [1, 3, 4, 5, 10, 11, 14, 15, 16, 17, 18, 19] → v26[k]? = (v26.set 19 0xEE)[k]? := by
  refine ⟨by decide, by decide, by decide, fun k hk => ?_⟩
  rw [List.getElem?_set_ne]
  intro h
  subst h
  simp at hk

theorem witness_EmptyFrameIsSkipped :
    (st false []).ovf = false ∧ (st false []).esc = false ∧ (st false []).acc = [] := ⟨rfl, rfl, rfl⟩

/-- Also of DecoderOperationsEmitTheirResult's last clause. -/
theorem witness_NonEmptyFrameIsDecoded :
    [0xAA#8] ≠ [] ∧ decode (.frame [0xAA]) = .ok (.pdUnrec [0xAA])
    ∧ decode (.frame v26) = .ok (.pdLog v26) := by decide

/-- A step with each of the outputs, and two with none; also of OneRenderingPerRecord. -/
theorem witness_StepOutputsComeInTheFixedOrder :
    blockStep (.byte 0x7E) (st false [0xAA]) =
      .next { st false [] with out := [.frameOut [0xAA], .recOut (.unrec [0xAA])] }
    ∧ blockStep (.byte 0x7E) (st false []) = .next { st false [] with out := [.frameOut []] }
    ∧ blockStep (.byte 0x5E) (st4 true [1, 2, 3, 4]) =
      .next { st4 true [1, 2, 3, 4] with ovf := true, out := [.faultOut (.overflow ⟨0x7E, 4⟩)] }
    ∧ blockStep (.byte 0x7D) (st4 false [1, 2, 3, 4]) = .next (st4 true [1, 2, 3, 4])
    ∧ blockStep (.byte 0x04) (st4 false [1, 2, 3]) = .next (st4 false [1, 2, 3, 4]) :=
  ⟨rfl, rfl, rfl, rfl, rfl⟩

/-- The premises of the three invariants, in a state with a record, a bound and a fault. -/
theorem witness_invariants :
    { st4 false [1, 2, 3, 4] with
        ovf := true,
        out := [.frameOut [0xAA], .recOut (.unrec [0xAA]), .faultOut (.overflow ⟨5, 4⟩)],
        input := [.reset] }.wf = true
    ∧ { st4 false [1, 2, 3, 4] with
        out := [.frameOut [0xAA], .recOut (.unrec [0xAA])], input := [.byte 1] }.paired
    ∧ { st4 false [1, 2, 3, 4] with
        ovf := true, out := [.faultOut (.overflow ⟨5, 4⟩)], input := [.reset] }.faultRecorded
    ∧ ∃ t, step { st4 false [1, 2, 3, 4] with input := [.byte 1] } = .next t :=
  ⟨by decide, rfl, fun _ => by decide, _, rfl⟩

theorem witness_StepRunsTheDispatchedOperation :
    (State.reset.present [.byte 0x7E, .eoi]).input = [.byte 0x7E, .eoi]
    ∧ (State.reset.present [.byte 0x7E, .eoi]).ovf = false
    ∧ decode (.key (dispatchKey (.byte 0x7E) false)) = .ok .dfFlag
    ∧ decode (.key (dispatchKey .reset true)) = .ok .dfReset := by decide

theorem witness_WithNoEventTheStatePersists : (st true [1]).input = [] := rfl

theorem witness_EachStateElementHasItsWriters :
    exec .dfEsc (st false [1]) = .next (st true [1]) ∧ exec .dfEscX (st true []) = .next (st false [0x5D])
    ∧ exec .dfReset { st false [] with ovf := true } = .next (st false [])
    ∧ exec (.dfData 5) (st4 false [1, 2, 3, 4]) =
      .next { st4 false [1, 2, 3, 4] with ovf := true, out := [.faultOut (.overflow ⟨5, 4⟩)] } :=
  ⟨rfl, rfl, rfl, rfl⟩

/-- InvariantsHoldAtReset: the least bound, and no bound. -/
theorem witness_InvariantsHoldAtReset :
    (AccCap.bounded 1).legal = true ∧ AccCap.unbounded.legal = true := ⟨rfl, rfl⟩

/-- BytesAreAccountedForExactly: a bounded run with no fault in which a frame is emitted and EOI and RESET
discard, and a run with no bound. -/
theorem witness_BytesAreAccountedForExactly :
    (st4 true [1]).ovf = false
    ∧ runEvents [.byte 0x5E, .byte 0x7E, .byte 2, .eoi, .byte 3, .reset, .byte 4] (st4 true [1]) =
        .next { st4 false [4] with out := [.frameOut [1, 0x7E], .recOut (.unrec [1, 0x7E])] }
    ∧ (st true [1]).ovf = false ∧ (st true [1]).accCap = .unbounded := ⟨rfl, rfl, rfl, rfl⟩

theorem witness_ChunkingIsUnobservable : (st true [0x41]).input = [] := rfl

/-- The bound is exactly the payload's length. -/
theorem witness_EscapeRoundTrip :
    (st4 false []).ovf = false ∧ (st4 false []).esc = false ∧ (st4 false []).acc = []
    ∧ ∀ n, (st4 false []).accCap = .bounded n → [0x7E#8, 0x7D#8, 0x00#8, 0xFF#8].length ≤ n :=
  ⟨rfl, rfl, rfl, fun n h => by cases h; decide⟩

/-- W7's bytes between its two flags. -/
theorem witness_FrameBetweenTwoFlagsIsTheResolution :
    (st4 false [1]).ovf = false ∧ (st4 false [1]).esc = false
    ∧ resolve false [0x41, 0x7D, 0x5E, 0x42] = some ([0x41, 0x7E, 0x42], false)
    ∧ ∀ n, (st4 false [1]).accCap = .bounded n → [0x41#8, 0x7E#8, 0x42#8].length ≤ n :=
  ⟨rfl, rfl, by decide, fun n h => by cases h; decide⟩

theorem witness_BlockRefinesTheReferenceFunctions :
    (st true [1]).accCap = .unbounded ∧ (st true [1]).out = [] := ⟨rfl, rfl⟩

theorem witness_FlagResynchronises :
    (st false [1]).esc = false ∧ (st false [2, 3]).esc = false ∧ (st false [1]).ovf = false
    ∧ (st false [2, 3]).ovf = false ∧ (st false [1]).accCap = (st false [2, 3]).accCap
    ∧ runEvents [.byte 0x7E, .byte 0x41] (st false [1]) =
        .next { st false [0x41] with out := [.frameOut [1], .recOut (.unrec [1])] }
    ∧ runEvents [.byte 0x7E, .byte 0x41] (st false [2, 3]) =
        .next { st false [0x41] with out := [.frameOut [2, 3], .recOut (.unrec [2, 3])] } :=
  ⟨rfl, rfl, rfl, rfl, rfl, rfl, rfl⟩

theorem witness_EoiTerminatedRunEndsInTheResetState :
    runEvents [.byte 0x41, .eoi] (st true [1]) = .next (st false []) ∧ (st false []).ovf = false :=
  ⟨rfl, rfl⟩

theorem witness_PrintableLogRendering :
    (params .lower).Legal ∧ (∀ b ∈ [0x20#8, 0x7E#8], 0x20 ≤ b.toNat ∧ b.toNat ≤ 0x7E) :=
  ⟨⟨fun _ _ => rfl, by decide⟩, by decide⟩

end Sys2Proof.Tests
end

section
/-! SUPPORT. Proofs of the family `00_scope`: the value of a read of the frame space (spec/00_scope.md
R17), and where the operations stop (R17, R80, R91, R173; log entry 7). -/

namespace Sys2Proof

/-- The recursion of `littleEndian` as the sum of R17: byte `k` has weight `2 ^ (8 * k)`. -/
theorem littleEndian_eq_sum (bs : List Byte) :
    littleEndian bs = ∑ k ∈ Finset.range bs.length, ((bs[k]?).getD 0x00#8).toNat <<< (8 * k) := by
  induction bs with
  | nil => rfl
  | cons b bs ih =>
    have hshift (x k : Nat) : x <<< (8 * (k + 1)) = 2 ^ 8 * x <<< (8 * k) := by
      rw [Nat.mul_succ, Nat.shiftLeft_add, Nat.shiftLeft_eq _ 8, Nat.mul_comm]
    simp only [List.length_cons, Finset.sum_range_succ', List.getElem?_cons_succ, hshift,
      ← Finset.mul_sum, ← ih]
    simp [littleEndian, Nat.add_comm]

/-- Settles O21: the bytes taken are `n`, and byte `k` of them is byte `off + k` of the frame. -/
theorem memReadIsLittleEndian : Obligations.MemReadIsLittleEndian := by
  intro f off n
  refine ⟨fun h => ?_, memRead_eq_none⟩
  have hlen : ((f.drop off).take n).length = n := by
    rw [List.length_take, List.length_drop]
    omega
  rw [memRead_of_le h, littleEndian_eq_sum, hlen]
  refine congrArg some (Finset.sum_congr rfl fun k hk => ?_)
  rw [List.getElem?_take_of_lt (Finset.mem_range.mp hk), List.getElem?_drop]

namespace Machine

variable {s : State} {b : Byte}

/-- Where the operand is refused, the operation is refused alike for both values of `esc`. -/
theorem whenSelected_refused (ho : s.ovf = false) (e : Bool) :
    whenSelected e s (.refused .notSelected) = .refused .notSelected := by
  by_cases he : s.esc = e
  · exact whenSelected_of ho he
  · exact whenSelected_other ho he

theorem execDfData_of_not_data (ho : s.ovf = false) (hb : byteClass b ≠ .data) :
    execDfData b s = .refused .notSelected := by
  rw [execDfData, if_neg hb, whenSelected_refused ho]

theorem execDfDataX_of_not_data (ho : s.ovf = false) (hb : byteClass b ≠ .data) :
    execDfDataX b s = .refused .notSelected := by
  rw [execDfDataX, if_neg hb, whenSelected_refused ho]

/-- An operation whose operand does not meet its row's condition is refused. Five rows have a condition;
every operation of another row is well-formed. -/
theorem exec_of_not_wellFormed {i : Instr} (ho : s.ovf = false) (hi : ¬ WellFormed i) :
    exec i s = .refused .notSelected := by
  cases i with
  | dfReset | dfEoi | dfFlag | dfFlagX | dfEsc | dfEscX | pipeSkip => exact absurd rfl hi
  | dfData b => exact execDfData_of_not_data ho fun hb => hi (beq_iff_eq.mpr hb)
  | dfDataX b => exact execDfDataX_of_not_data ho fun hb => hi (beq_iff_eq.mpr hb)
  | pdLog f => exact if_neg hi
  | pdUnrec f => exact if_pos (by simpa [WellFormed, Instr.wf] using hi)
  | pipeDecode f => exact if_pos (by simpa [WellFormed, Instr.wf] using hi)

/-- The fault gate of R91 and R173, for the operations of BYTE and EOI events. -/
theorem exec_stuck (ho : s.ovf = true) {i : Instr}
    (hi : i ∈ [Instr.dfEoi, .dfFlag, .dfFlagX, .dfEsc, .dfEscX, .dfData b, .dfDataX b]) :
    exec i s = .refused .stuck := by
  simp only [List.mem_cons, List.not_mem_nil, or_false] at hi
  obtain rfl | hi := hi
  · exact if_pos ho
  · obtain rfl | rfl | rfl | rfl | rfl | rfl := hi <;> exact whenSelected_stuck ho

theorem exec_of_esc_pending (ho : s.ovf = false) (he : s.esc = true) {i : Instr}
    (hi : i ∈ [Instr.dfFlag, .dfEsc, .dfData b]) : exec i s = .refused .notSelected := by
  have hne : ¬ s.esc = false := by simp [he]
  simp only [List.mem_cons, List.not_mem_nil, or_false] at hi
  obtain rfl | rfl | rfl := hi <;> exact whenSelected_other ho hne

theorem exec_of_esc_clear (ho : s.ovf = false) (he : s.esc = false) {i : Instr}
    (hi : i ∈ [Instr.dfFlagX, .dfEscX, .dfDataX b]) : exec i s = .refused .notSelected := by
  have hne : ¬ s.esc = true := by simp [he]
  simp only [List.mem_cons, List.not_mem_nil, or_false] at hi
  obtain rfl | rfl | rfl := hi <;> exact whenSelected_other ho hne

/-- Settles O16: the fault gate, the two values of `esc`, and the conditions on operands, each by its
lemma. -/
theorem unselectedOperationsAreRefused : Obligations.UnselectedOperationsAreRefused :=
  ⟨fun _ _ ho _ hi => exec_stuck ho hi,
    fun _ _ ho he _ hi => exec_of_esc_pending ho he hi,
    fun _ _ ho he _ hi => exec_of_esc_clear ho he hi,
    fun _ _ ho hi => exec_of_not_wellFormed ho hi⟩

end Machine

end Sys2Proof
end

section
/-! SUPPORT. Proofs of the family `10_state`: everything an operation can do to the state (spec/10_state.md
R23 to R25), what therefore holds after every step and run, and the states reached from reset (R26, R33). -/

namespace Sys2Proof.Machine

/-! ## What an operation can do -/

/-- The four appending rows of R24: the operation, the `esc` that selects it and the byte it appends. -/
inductive Appends : Instr → Bool → Byte → Prop
  | flagX : Appends .dfFlagX true (unescape Config.flag)
  | escX : Appends .dfEscX true (unescape Config.esc)
  | data {b : Byte} (hb : byteClass b = .data) : Appends (.dfData b) false b
  | dataX {b : Byte} (hb : byteClass b = .data) : Appends (.dfDataX b) true (unescape b)

/-- The operations that emit the decoder's result for a frame (R122, R123, R151). -/
inductive Delivers : Instr → Frame → Prop
  | log {f : Frame} (hf : valid f = true) : Delivers (.pdLog f) f
  | unrec {f : Frame} (hf : ¬ valid f = true) : Delivers (.pdUnrec f) f
  | decode {f : Frame} (hf : ¬ f.isEmpty = true) : Delivers (.pipeDecode f) f

/-- Everything an operation that answers a next state can do, with the guard of each case; `exec_next`
ties it to `exec`. -/
inductive Effect (s : State) : Instr → State → Prop
  | reset : Effect s .dfReset (((s.setAcc []).setEsc false).setOvf false)
  | eoi (ho : s.ovf = false) : Effect s .dfEoi ((s.setAcc []).setEsc false)
  | flag (ho : s.ovf = false) (he : s.esc = false) : Effect s .dfFlag s.closeFrame
  | escape (ho : s.ovf = false) (he : s.esc = false) : Effect s .dfEsc (s.setEsc true)
  | append {i : Instr} {v : Byte} (ho : s.ovf = false) (ha : Appends i s.esc v)
      (hroom : accFull s = false) : Effect s i ((s.setAcc (s.acc ++ [v])).setEsc false)
  | overflow {i : Instr} {v : Byte} (ho : s.ovf = false) (ha : Appends i s.esc v)
      (hfull : accFull s = true) : Effect s i (raiseOverflow v s)
  | record {i : Instr} {f : Frame} {r : RecResult} (hi : Delivers i f)
      (hr : decodeFrame f = some r) : Effect s i (s.emit (.recOut r))
  | skip : Effect s .pipeSkip s

variable {s t : State} {i : Instr} {v : Byte}

/-- An appending operation either appends its byte and leaves `esc` clear, or overflows. -/
theorem effect_of_appendThen {rest : State → State} (ho : s.ovf = false) (ha : Appends i s.esc v)
    (hrest : rest (s.setAcc (s.acc ++ [v])) = (s.setAcc (s.acc ++ [v])).setEsc false)
    (h : appendThen v rest s = .next t) : Effect s i t := by
  obtain ⟨hfull, rfl⟩ | ⟨hroom, rfl⟩ := appendThen_next h
  · exact .overflow ho ha hfull
  · rw [hrest]; exact .append ho ha hroom

theorem effect_of_deliver {f : Frame} (hi : Delivers i f) (h : deliver (decodeFrame f) s = .next t) :
    Effect s i t := by
  obtain ⟨r, hr, rfl⟩ := deliver_next h
  exact .record hi hr

theorem ite_refused_next {p : Prop} [Decidable p] {x : Result} {r : Refusal}
    (h : (if p then x else .refused r) = .next t) : p ∧ x = .next t := by
  split at h
  · exact ⟨‹p›, h⟩
  · cases h

theorem refused_ite_next {p : Prop} [Decidable p] {x : Result} {r : Refusal}
    (h : (if p then .refused r else x) = .next t) : ¬ p ∧ x = .next t := by
  split at h
  · cases h
  · exact ⟨‹¬ p›, h⟩

/-- The inversion of `exec`, one case per row of the opcode table. -/
theorem exec_next (h : exec i s = .next t) : Effect s i t := by
  cases i with
  | dfReset => cases h; exact .reset
  | dfEoi =>
    obtain ⟨ho, h⟩ := refused_ite_next h
    cases h; exact .eoi (Bool.not_eq_true _ ▸ ho)
  | dfFlag =>
    obtain ⟨ho, he, h⟩ := whenSelected_next h
    cases h; exact .flag ho he
  | dfFlagX =>
    obtain ⟨ho, he, h⟩ := whenSelected_next h
    exact effect_of_appendThen ho (he ▸ .flagX) rfl h
  | dfEsc =>
    obtain ⟨ho, he, h⟩ := whenSelected_next h
    cases h; exact .escape ho he
  | dfEscX =>
    obtain ⟨ho, he, h⟩ := whenSelected_next h
    exact effect_of_appendThen ho (he ▸ .escX) rfl h
  | dfData b =>
    obtain ⟨ho, he, h⟩ := whenSelected_next h
    obtain ⟨hb, h⟩ := ite_refused_next h
    refine effect_of_appendThen ho (he ▸ .data hb) ?_ h
    rw [← he]; rfl
  | dfDataX b =>
    obtain ⟨ho, he, h⟩ := whenSelected_next h
    obtain ⟨hb, h⟩ := ite_refused_next h
    exact effect_of_appendThen ho (he ▸ .dataX hb) rfl h
  | pdLog f =>
    obtain ⟨hf, h⟩ := ite_refused_next h
    exact effect_of_deliver (.log hf) (decodeFrame_of_valid hf ▸ h)
  | pdUnrec f =>
    obtain ⟨hf, h⟩ := refused_ite_next h
    exact effect_of_deliver (.unrec hf) (decodeFrame_of_not_valid hf ▸ h)
  | pipeSkip => cases h; exact .skip
  | pipeDecode f =>
    obtain ⟨hf, h⟩ := refused_ite_next h
    exact effect_of_deliver (.decode hf) h

/-! ## From every operation to every step and run -/

section Invariant

variable {P : State → Prop}
  (hexec : ∀ {i : Instr} {s t : State}, P s → exec i s = .next t → P t)
include hexec

theorem runOperation_keeps (hs : P s) (h : runOperation i s = .next t) : P t := by
  unfold runOperation at h
  split at h
  case h_1 u hu =>
    split at h
    · exact hexec (hexec hs hu) h
    · cases h; exact hexec hs hu
  all_goals cases h

theorem blockStep_keeps {ev : InEvent} (hs : P s) (h : blockStep ev s = .next t) : P t := by
  unfold blockStep at h
  split at h
  · cases h; exact hs
  · split at h
    · exact runOperation_keeps hexec hs h
    · cases h

theorem runEvents_keeps {evs : List InEvent} (hs : P s) (h : runEvents evs s = .next t) : P t := by
  induction evs generalizing s with
  | nil => cases h; exact hs
  | cons ev evs ih =>
    unfold runEvents at h
    split at h
    case h_1 u hu => exact ih (blockStep_keeps hexec hs hu) h
    all_goals cases h

/-- A step also takes an event from the queue, so the property must not depend on the queue. -/
theorem step_keeps (hinput : ∀ {s : State} {evs : List InEvent}, P s → P { s with input := evs })
    (hs : P s) (h : step s = .next t) : P t := by
  unfold step at h
  cases hq : s.input with
  | nil => rw [takeEvent_nil hq] at h; cases h; exact hs
  | cons ev rest =>
    rw [takeEvent_cons hq] at h
    exact blockStep_keeps hexec (hinput hs) h

end Invariant

/-! ## The block's invariants -/

theorem wf_iff : s.wf = true ↔
    s.accCap.legal = true ∧ s.accCap.admits s.acc.length = true
      ∧ (s.ovf = true → accFull s = true) := by
  cases h : s.ovf <;> simp [State.wf, h, and_assoc]

theorem admits_zero (c : AccCap) : c.admits 0 = true := by
  cases c with
  | unbounded => rfl
  | bounded n => simp [AccCap.admits]

/-- Below the bound there is room for one byte more (R90). -/
theorem admits_succ_of_room (h : s.accCap.admits s.acc.length = true) (hroom : accFull s = false) :
    s.accCap.admits (s.acc.length + 1) = true := by
  unfold accFull at hroom
  cases hc : s.accCap with
  | unbounded => rfl
  | bounded n =>
    simp only [hc, AccCap.admits, decide_eq_true_eq, decide_eq_false_iff_not] at h hroom ⊢
    omega

theorem wf_of_acc_nil (hl : s.accCap.legal = true) (ha : s.acc = []) (ho : s.ovf = false) :
    s.wf = true := by
  refine wf_iff.mpr ⟨hl, ?_, by simp [ho]⟩
  rw [ha]; exact admits_zero _

theorem exec_keeps_wf (hs : s.wf = true) (h : exec i s = .next t) : t.wf = true := by
  have ⟨hlegal, hlen, hfault⟩ := wf_iff.mp hs
  cases exec_next h with
  | reset => exact wf_of_acc_nil hlegal rfl rfl
  | eoi ho | flag ho => exact wf_of_acc_nil hlegal rfl ho
  | append ho ha hroom =>
    refine wf_iff.mpr ⟨hlegal, ?_, by simp [ho]⟩
    simpa using admits_succ_of_room hlen hroom
  | overflow ho ha hfull => exact wf_iff.mpr ⟨hlegal, hlen, fun _ => hfull⟩
  | escape | record | skip => exact hs

/-- Settles O35: every operation keeps the invariants, and they do not speak of the queue. -/
theorem stepKeepsTheBlockInvariants : Obligations.StepKeepsTheBlockInvariants :=
  fun _ _ hs h => step_keeps (P := (State.wf · = true)) exec_keeps_wf id hs h

/-! ## Every run completes -/

theorem decodeFrame_completes (f : Frame) : ∃ r, decodeFrame f = some r := by
  by_cases hf : valid f = true
  · have hlen := minLen_le_of_valid hf
    rw [decodeFrame_of_valid hf, pdLog, timestamp, lineNumber,
      memRead_of_le (show 6 + 4 ≤ f.length by omega), memRead_of_le (show 12 + 2 ≤ f.length by omega)]
    exact ⟨_, rfl⟩
  · exact ⟨_, decodeFrame_of_not_valid hf⟩

theorem exec_decodePipeCode_completes (f : Frame) (s : State) :
    ∃ t, exec (decodePipeCode f) s = .next t := by
  cases f with
  | nil => exact ⟨s, rfl⟩
  | cons b f =>
    obtain ⟨r, hr⟩ := decodeFrame_completes (b :: f)
    refine ⟨s.emit (.recOut r), ?_⟩
    change deliver (decodeFrame (b :: f)) s = _
    rw [hr, deliver_some]

theorem blockStep_byte_completes (b : Byte) (ho : s.ovf = false) :
    ∃ t, blockStep (.byte b) s = .next t := by
  cases he : s.esc with
  | true => rw [blockStep_pending ho he]; exact appendThen_completes _ _ _
  | false =>
    cases hb : byteClass b with
    | flag =>
      rw [byteClass_eq_flag.mp hb, blockStep_flag ho he]
      exact exec_decodePipeCode_completes _ _
    | esc => rw [byteClass_eq_esc.mp hb, blockStep_esc ho he]; exact ⟨_, rfl⟩
    | data => rw [blockStep_data ho he hb]; exact appendThen_completes _ _ _

theorem blockStep_completes (ev : InEvent) (s : State) : ∃ t, blockStep ev s = .next t := by
  cases ho : s.ovf with
  | true =>
    by_cases hev : ev = .reset
    · rw [hev]; exact ⟨_, blockStep_reset s⟩
    · exact ⟨s, blockStep_stuck ho hev⟩
  | false =>
    cases ev with
    | byte b => exact blockStep_byte_completes b ho
    | eoi => exact ⟨_, blockStep_eoi ho⟩
    | reset => exact ⟨_, blockStep_reset s⟩

theorem runEvents_completes (evs : List InEvent) (s : State) : ∃ t, runEvents evs s = .next t := by
  induction evs generalizing s with
  | nil => exact ⟨s, rfl⟩
  | cons ev evs ih =>
    obtain ⟨u, hu⟩ := blockStep_completes ev s
    rw [runEvents_cons_of_next hu]
    exact ih u

/-! ## The unbounded accumulator -/

@[simp] theorem faultsOf_append (a b : List OutEvent) :
    faultsOf (a ++ b) = faultsOf a ++ faultsOf b := List.filterMap_append

@[simp] theorem faultsOf_frameOut (f : Frame) : faultsOf [.frameOut f] = [] := rfl
@[simp] theorem faultsOf_recOut (r : RecResult) : faultsOf [.recOut r] = [] := rfl

theorem accFull_unbounded (h : s.accCap = .unbounded) : accFull s = false := by
  simp [accFull, h]

/-- `t` is an unbounded block with no fault held, and no fault has been reported since `s`. -/
def FaultFreeSince (s t : State) : Prop :=
  t.ovf = false ∧ t.accCap = .unbounded ∧ faultsOf t.out = faultsOf s.out

theorem exec_keeps_faultFreeSince {u : State} (hs : FaultFreeSince u s) (h : exec i s = .next t) :
    FaultFreeSince u t := by
  obtain ⟨ho, hc, hf⟩ := hs
  cases exec_next h with
  | overflow _ _ hfull => rw [accFull_unbounded hc] at hfull; cases hfull
  | reset => exact ⟨rfl, hc, hf⟩
  | eoi | escape | append | skip => exact ⟨ho, hc, hf⟩
  | flag | record => exact ⟨ho, hc, by simpa using hf⟩

/-- Settles O20: the run completes, and none of its operations can overflow. -/
theorem unboundedAccumulatorNeverFaults : Obligations.UnboundedAccumulatorNeverFaults := by
  intro evs s hc ho
  obtain ⟨t, h⟩ := runEvents_completes evs s
  exact ⟨t, h, runEvents_keeps exec_keeps_faultFreeSince ⟨ho, hc, rfl⟩ h⟩

/-! ## Who writes each state element -/

theorem accFull_iff : accFull s = true ↔ ∃ n, s.accCap = .bounded n ∧ s.acc.length = n := by
  cases hc : s.accCap with
  | unbounded => simp [accFull, hc]
  | bounded n => simp [accFull, hc, eq_comm]

theorem operation_of_appends {e : Bool} (h : Appends i e v) :
    i = .dfFlagX ∨ i = .dfEscX ∨ ∃ b, i = .dfData b ∨ i = .dfDataX b := by
  cases h <;> simp

theorem operation_of_appends_pending (h : Appends i true v) :
    i = .dfFlagX ∨ i = .dfEscX ∨ ∃ b, i = .dfDataX b := by
  cases h <;> simp

theorem eq_dfEsc_of_esc_set (h : Effect s i t) (hs : s.esc = false) (ht : t.esc = true) :
    i = .dfEsc := by
  cases h with
  | escape => rfl
  | reset | eoi | append => cases ht
  | flag | overflow | record | skip => exact absurd (hs.symm.trans ht) Bool.false_ne_true

theorem operation_of_esc_cleared (h : Effect s i t) (hs : s.esc = true) (ht : t.esc = false) :
    i = .dfFlagX ∨ i = .dfEscX ∨ (∃ b, i = .dfDataX b) ∨ i = .dfEoi ∨ i = .dfReset := by
  cases h with
  | reset | eoi => simp
  | append _ ha => have := operation_of_appends_pending (hs ▸ ha); tauto
  | escape => cases ht
  | flag | overflow | record | skip => exact absurd (ht.symm.trans hs) Bool.false_ne_true

theorem overflow_of_ovf_set (h : Effect s i t) (hs : s.ovf = false) (ht : t.ovf = true) :
    (i = .dfFlagX ∨ i = .dfEscX ∨ ∃ b, i = .dfData b ∨ i = .dfDataX b)
      ∧ ∃ n, s.accCap = .bounded n ∧ s.acc.length = n := by
  cases h with
  | overflow _ ha hfull => exact ⟨operation_of_appends ha, accFull_iff.mp hfull⟩
  | reset => cases ht
  | eoi | flag | escape | append | record | skip =>
    exact absurd (hs.symm.trans ht) Bool.false_ne_true

theorem eq_dfReset_of_ovf_cleared (h : Effect s i t) (hs : s.ovf = true) (ht : t.ovf = false) :
    i = .dfReset := by
  cases h with
  | reset => rfl
  | overflow => cases ht
  | eoi | flag | escape | append | record | skip =>
    exact absurd (ht.symm.trans hs) Bool.false_ne_true

theorem operation_of_acc_changed (h : Effect s i t) (hne : t.acc ≠ s.acc) :
    ((i = .dfFlag ∨ i = .dfEoi ∨ i = .dfReset) ∧ t.acc = [])
      ∨ ((i = .dfFlagX ∨ i = .dfEscX ∨ ∃ b, i = .dfData b ∨ i = .dfDataX b)
        ∧ ∃ v, t.acc = s.acc ++ [v]) := by
  cases h with
  | reset | eoi | flag => simp
  | append _ ha => exact .inr ⟨operation_of_appends ha, _, rfl⟩
  | escape | overflow | record | skip => exact absurd rfl hne

theorem effect_keeps_accCap_input_grows_out (h : Effect s i t) :
    t.accCap = s.accCap ∧ t.input = s.input ∧ ∃ evs, t.out = s.out ++ evs ∧ evs.length ≤ 1 := by
  cases h with
  | reset | eoi | escape | append | skip => exact ⟨rfl, rfl, [], by simp⟩
  | flag | overflow | record => exact ⟨rfl, rfl, [_], rfl, le_rfl⟩

/-- Settles O41: one lemma per state element, each over the effects of an operation. -/
theorem eachStateElementHasItsWriters : Obligations.EachStateElementHasItsWriters := by
  intro i s t h
  have he := exec_next h
  exact ⟨eq_dfEsc_of_esc_set he, operation_of_esc_cleared he, overflow_of_ovf_set he,
    eq_dfReset_of_ovf_cleared he, operation_of_acc_changed he, effect_keeps_accCap_input_grows_out he⟩

/-! ## The states reached from reset -/

theorem unescape_unescape (b : Byte) : unescape (unescape b) = b := by
  rw [unescape, unescape, BitVec.xor_assoc, BitVec.xor_self, BitVec.xor_zero]

/-- The stream that writes every byte of a frame as an escape pair. By R63 a pair appends its byte,
whatever the byte is. -/
def escapePairs : Frame → List InEvent
  | [] => []
  | b :: a => .byte Config.esc :: .byte (unescape b) :: escapePairs a

theorem runEvents_escape_pair (b : Byte) (evs : List InEvent) (ho : s.ovf = false)
    (he : s.esc = false) (hroom : accFull s = false) :
    runEvents (.byte Config.esc :: .byte (unescape b) :: evs) s
      = runEvents evs (s.setAcc (s.acc ++ [b])) := by
  have hpair : blockStep (.byte (unescape b)) (s.setEsc true)
      = .next ((s.setAcc (s.acc ++ [b])).setEsc s.esc) := by
    rw [blockStep_pending (s := s.setEsc true) ho rfl, unescape_unescape,
      appendThen_of_room (s := s.setEsc true) hroom, he]
    rfl
  rw [runEvents_cons_of_next (blockStep_esc ho he), runEvents_cons_of_next hpair]
  rfl

theorem runEvents_escapePairs (a : Frame) (evs : List InEvent) (hc : s.accCap = .unbounded)
    (ho : s.ovf = false) (he : s.esc = false) :
    runEvents (escapePairs a ++ evs) s = runEvents evs (s.setAcc (s.acc ++ a)) := by
  induction a generalizing s with
  | nil => rw [List.append_nil]; rfl
  | cons b a ih =>
    rw [escapePairs, List.cons_append, List.cons_append,
      runEvents_escape_pair b _ ho he (accFull_unbounded hc),
      ih (s := s.setAcc (s.acc ++ [b])) hc ho he, State.setAcc_acc, List.append_assoc]
    rfl

/-- Settles O48: the frame's bytes as escape pairs, and one escape byte more where `esc` is to be 1. -/
theorem everyPartialFrameIsReachable : Obligations.EveryPartialFrameIsReachable := by
  intro e a
  have hrun (evs : List InEvent) :
      runEvents (escapePairs a ++ evs) State.reset = runEvents evs (State.reset.setAcc a) :=
    runEvents_escapePairs a evs rfl rfl rfl
  cases e with
  | false => exact ⟨_, _, hrun [], rfl, rfl, rfl⟩
  | true =>
    refine ⟨_, (State.reset.setAcc a).setEsc true, (hrun [.byte Config.esc]).trans ?_, rfl, rfl, rfl⟩
    exact runEvents_cons_of_next (blockStep_esc rfl rfl)

/-- Settles O15: R33's values are those DF.RESET writes. -/
theorem resetLeavesTheResetState : Obligations.ResetLeavesTheResetState := by
  refine ⟨rfl, rfl, rfl, fun s t h => ?_⟩
  cases exec_next h with
  | reset => exact ⟨rfl, rfl, rfl⟩
  | append _ ha | overflow _ ha => cases ha
  | record hi => cases hi

theorem invariants_at_reset_with_capacity {c : AccCap} (hc : c.legal = true) :
    { State.reset with accCap := c }.wf = true ∧ { State.reset with accCap := c }.paired
      ∧ { State.reset with accCap := c }.faultRecorded :=
  ⟨wf_of_acc_nil hc rfl rfl, rfl, fun ho => nomatch ho⟩

/-- Settles O37: the reference value UNBOUNDED is one of the legal capacities. -/
theorem invariantsHoldAtReset : Obligations.InvariantsHoldAtReset :=
  ⟨invariants_at_reset_with_capacity (c := .unbounded) rfl,
    fun _ hc => invariants_at_reset_with_capacity hc⟩

end Sys2Proof.Machine
end

section
/-! SUPPORT. Proofs of the family `20_memory`: no access leaves the frame (spec/20_memory.md R41), so
that no operation and no step answers a fault. -/

namespace Sys2Proof.Machine

variable {s : State} {r : Fault}

theorem ne_fault_of_completes {x : Result} (h : ∃ t, x = .next t) : x ≠ .fault r := by
  obtain ⟨t, rfl⟩ := h
  nofun

theorem appendThen_ne_fault {v : Byte} {rest : State → State} : appendThen v rest s ≠ .fault r :=
  ne_fault_of_completes (appendThen_completes v rest s)

theorem ite_ne_fault {p : Prop} [Decidable p] {x y : Result} (hx : p → x ≠ .fault r)
    (hy : ¬ p → y ≠ .fault r) : (if p then x else y) ≠ .fault r :=
  iteInduction (motive := fun z : Result => z ≠ .fault r) hx hy

/-- The selection test itself raises nothing: it refuses, or the effect answers. -/
theorem whenSelected_ne_fault {e : Bool} {x : Result} (hx : x ≠ .fault r) :
    whenSelected e s x ≠ .fault r :=
  ite_ne_fault nofun fun _ => ite_ne_fault (fun _ => hx) nofun

/-- The one place where a read outside the frame would show (R41): the decoder gives a result on every
frame, since the gate's length test comes before its reads. -/
theorem deliver_decodeFrame_ne_fault (f : Frame) : deliver (decodeFrame f) s ≠ .fault r := by
  obtain ⟨x, hx⟩ := decodeFrame_completes f
  rw [hx, deliver_some]
  nofun

/-- An operation answers a next state, a refusal, or what the decoder delivers. -/
theorem exec_ne_fault (i : Instr) (s : State) (r : Fault) : exec i s ≠ .fault r := by
  cases i with
  | dfReset | pipeSkip => nofun
  | dfEoi => exact ite_ne_fault nofun nofun
  | dfFlag | dfEsc => exact whenSelected_ne_fault nofun
  | dfFlagX | dfEscX => exact whenSelected_ne_fault appendThen_ne_fault
  | dfData b | dfDataX b =>
    exact whenSelected_ne_fault (ite_ne_fault (fun _ => appendThen_ne_fault) nofun)
  | pdLog f =>
    exact ite_ne_fault (fun hf => decodeFrame_of_valid hf ▸ deliver_decodeFrame_ne_fault f) nofun
  | pdUnrec f => exact ite_ne_fault nofun nofun
  | pipeDecode f => exact ite_ne_fault nofun fun _ => deliver_decodeFrame_ne_fault f

theorem step_completes (s : State) : ∃ t, step s = .next t := by
  unfold step
  cases hq : s.input with
  | nil => exact ⟨s, takeEvent_nil hq⟩
  | cons ev rest =>
    rw [takeEvent_cons hq]
    exact blockStep_completes ev _

/-- Settles O30: an operation delivers only results the decoder has, and a step completes. -/
theorem noAccessIsOutOfRange : Obligations.NoAccessIsOutOfRange :=
  ⟨exec_ne_fault, fun s _ => ne_fault_of_completes (step_completes s)⟩

end Sys2Proof.Machine
end

section
/-! SUPPORT. Proofs of the family `30_encoding`: the dispatch key and its table (spec/30_encoding.md R80),
the agreement of decode and encode, the classification of frames (R81, R82), and the byte classes with
the escape code (R62, R63). -/

namespace Sys2Proof

/-! ## The fields of the dispatch key -/

section Fields

variable (ev : InEvent) (c e : Bool) (b : Byte)

theorem getLsbD_fields_code {i : Nat} (hi : i < 8) :
    (BitVec.ofBool c ++ BitVec.ofBool e ++ b).getLsbD i = b.getLsbD i :=
  BitVec.getLsbD_append.trans (if_pos hi)

theorem getLsbD_fields_esc : (BitVec.ofBool c ++ BitVec.ofBool e ++ b).getLsbD 8 = e :=
  BitVec.getLsbD_append.trans (by cases c <;> cases e <;> rfl)

theorem getLsbD_fields_ctl : (BitVec.ofBool c ++ BitVec.ofBool e ++ b).getLsbD 9 = c :=
  BitVec.getLsbD_append.trans (by cases c <;> cases e <;> rfl)

theorem dispatchKey_getLsbD_esc : (dispatchKey ev e).getLsbD 8 = e :=
  getLsbD_fields_esc ev.ctl e ev.code

theorem dispatchKey_getLsbD_ctl : (dispatchKey ev e).getLsbD 9 = ev.ctl :=
  getLsbD_fields_ctl ev.ctl e ev.code

theorem dispatchKey_code : (dispatchKey ev e).setWidth 8 = ev.code :=
  BitVec.setWidth_append_eq_right

end Fields

/-- A key is its three fields. -/
theorem key_eq_fields (k : BitVec 10) :
    k = BitVec.ofBool (k.getLsbD 9) ++ BitVec.ofBool (k.getLsbD 8) ++ k.setWidth 8 := by
  refine BitVec.eq_of_getLsbD_eq fun i hi => .symm ?_
  obtain h8 | rfl | rfl : i < 8 ∨ i = 8 ∨ i = 9 := by omega
  · exact (getLsbD_fields_code _ _ _ h8).trans (by simp [h8])
  · exact getLsbD_fields_esc _ _ _
  · exact getLsbD_fields_ctl _ _ _

theorem ctl_iff {ev : InEvent} : ev.ctl = true ↔ ev = .eoi ∨ ev = .reset := by
  cases ev <;> simp [InEvent.ctl]

/-- The codes of the control events are 0x00 and 0x01; the codes above them are reserved (R80). -/
theorem code_lt_of_ctl {ev : InEvent} (h : ev.ctl = true) : ev.code.toNat < 2 := by
  obtain rfl | rfl := ctl_iff.mp h <;> decide

/-- The event that a key stands for forms that key again. -/
theorem eq_dispatchKey_of_eventOfKey {k : BitVec 10} {ev : InEvent} (h : eventOfKey k = some ev) :
    k = dispatchKey ev (k.getLsbD 8) := by
  suffices hfields : ev.ctl = k.getLsbD 9 ∧ ev.code = k.setWidth 8 by
    obtain ⟨hctl, hcode⟩ := hfields
    rw [dispatchKey, hctl, hcode]
    exact key_eq_fields k
  unfold eventOfKey at h
  split_ifs at h with hctl hreset heoi
  · cases h; exact ⟨hctl.symm, hreset.symm⟩
  · cases h; exact ⟨hctl.symm, heoi.symm⟩
  · cases h; exact ⟨(Bool.eq_false_iff.mpr hctl).symm, rfl⟩

/-! ## The table of the dispatch key -/

/-- The operation that R80's table gives for an event and `esc`, by the class of the byte. -/
def operationOf : InEvent → Bool → Instr
  | .reset, _ => .dfReset
  | .eoi, _ => .dfEoi
  | .byte b, false =>
    match byteClass b with
    | .flag => .dfFlag
    | .esc => .dfEsc
    | .data => .dfData b
  | .byte b, true =>
    match byteClass b with
    | .flag => .dfFlagX
    | .esc => .dfEscX
    | .data => .dfDataX b

theorem decode_dispatchKey (ev : InEvent) (e : Bool) :
    decode (.key (dispatchKey ev e)) = .ok (operationOf ev e) := by
  cases ev with
  | reset => exact decode_key_reset e
  | eoi => exact decode_key_eoi e
  | byte b =>
    cases e with
    | false => rw [decode_key_byte_clear, operationOf]; cases byteClass b <;> rfl
    | true => rw [decode_key_byte_pending, operationOf]; cases byteClass b <;> rfl

/-- The control codes 0x02 to 0xFF, with either value of `K[8]`. -/
theorem decode_key_reserved (e : Bool) {b : Byte} (hb : 2 ≤ b.toNat) :
    decode (.key (BitVec.ofBool true ++ BitVec.ofBool e ++ b))
      = .rejected .reservedControlCode := by
  revert b
  cases e <;> decide

theorem decode_key_of_reserved {k : BitVec 10} (hctl : k.getLsbD 9 = true)
    (hcode : 2 ≤ (k.setWidth 8).toNat) : decode (.key k) = .rejected .reservedControlCode := by
  rw [key_eq_fields k, hctl]
  exact decode_key_reserved _ hcode

theorem reserved_of_eventOfKey_none {k : BitVec 10} (h : eventOfKey k = none) :
    k.getLsbD 9 = true ∧ 2 ≤ (k.setWidth 8).toNat := by
  unfold eventOfKey at h
  split_ifs at h with hctl hreset heoi
  exact ⟨hctl, by bv_omega⟩

theorem dispatchKey_ne_reserved {k : BitVec 10} (hctl : k.getLsbD 9 = true)
    (hcode : 2 ≤ (k.setWidth 8).toNat) (ev : InEvent) (e : Bool) : dispatchKey ev e ≠ k := by
  rintro rfl
  rw [dispatchKey_getLsbD_ctl] at hctl
  rw [dispatchKey_code] at hcode
  exact absurd (code_lt_of_ctl hctl) (Nat.not_lt.mpr hcode)

/-- A key that decodes to an operation is the key of an event, and the operation is the event's. -/
theorem dispatchKey_of_decode {k : BitVec 10} {i : Instr} (h : decode (.key k) = .ok i) :
    ∃ ev e, k = dispatchKey ev e ∧ i = operationOf ev e := by
  cases hk : eventOfKey k with
  | none =>
    obtain ⟨hctl, hcode⟩ := reserved_of_eventOfKey_none hk
    rw [decode_key_of_reserved hctl hcode] at h
    cases h
  | some ev =>
    have hkey := eq_dispatchKey_of_eventOfKey hk
    rw [hkey, decode_dispatchKey] at h
    cases h
    exact ⟨ev, _, hkey, rfl⟩

/-! ## Decode and encode -/

theorem encode_dfData (b : Byte) : encode (.dfData b) = .key (dispatchKey (.byte b) false) :=
  congrArg (fun h : BitVec 2 => Code.key (h ++ b))
    (show 0b00#2 = BitVec.ofBool false ++ BitVec.ofBool false by decide)

theorem encode_dfDataX (b : Byte) : encode (.dfDataX b) = .key (dispatchKey (.byte b) true) :=
  congrArg (fun h : BitVec 2 => Code.key (h ++ b))
    (show 0b01#2 = BitVec.ofBool false ++ BitVec.ofBool true by decide)

/-- Settles O4: the key of a data row is the dispatch key of its byte; a frame is its own code. -/
theorem decodeOfEncodeIsTheOperation : Obligations.DecodeOfEncodeIsTheOperation := by
  intro i hi
  cases i with
  | dfReset => exact decode_dispatchKey .reset false
  | dfEoi => exact decode_dispatchKey .eoi false
  | dfFlag => exact decode_dispatchKey (.byte Config.flag) false
  | dfFlagX => exact decode_dispatchKey (.byte Config.flag) true
  | dfEsc => exact decode_dispatchKey (.byte Config.esc) false
  | dfEscX => exact decode_dispatchKey (.byte Config.esc) true
  | dfData b =>
    have hb : byteClass b = .data := beq_iff_eq.mp hi
    rw [encode_dfData, decode_key_byte_clear, hb]
  | dfDataX b =>
    have hb : byteClass b = .data := beq_iff_eq.mp hi
    rw [encode_dfDataX, decode_key_byte_pending, hb]
  | pdLog f => exact decode_frame_of_valid hi
  | pdUnrec f => exact decode_frame_of_not_valid (by simpa [WellFormed, Instr.wf] using hi)
  | pipeSkip => exact decode_pipe_nil
  | pipeDecode f =>
    cases f with
    | nil => cases hi
    | cons b f => exact decode_pipe_cons b f

theorem wellFormed_operationOf (ev : InEvent) (e : Bool) : WellFormed (operationOf ev e) := by
  cases ev with
  | reset | eoi => rfl
  | byte b => cases e <;> cases hb : byteClass b <;> simp [operationOf, hb, WellFormed, Instr.wf]

theorem encode_operationOf_byte (b : Byte) (e : Bool) :
    encode (operationOf (.byte b) e) = .key (dispatchKey (.byte b) e) := by
  cases hb : byteClass b with
  | flag => rw [byteClass_eq_flag.mp hb]; cases e <;> rfl
  | esc => rw [byteClass_eq_esc.mp hb]; cases e <;> rfl
  | data =>
    cases e with
    | false => simp only [operationOf, hb, encode_dfData]
    | true => simp only [operationOf, hb, encode_dfDataX]

/-- The control rows do not read `K[8]`, and their code has it 0 (R98, R99). -/
theorem encode_operationOf_of_ctl {ev : InEvent} (h : ev.ctl = true) (e : Bool) :
    encode (operationOf ev e) = .key (dispatchKey ev e &&& 0x2FF#10) := by
  obtain rfl | rfl := ctl_iff.mp h <;> cases e <;> rfl

/-- Settles O5: a key is the key of an event, whose operation has that key for its code, but for the
bit that the control rows do not read; a frame is the code of what it selects. -/
theorem encodeOfDecodeIsTheCode : Obligations.EncodeOfDecodeIsTheCode := by
  intro c i h
  cases c with
  | key k =>
    obtain ⟨ev, e, rfl, rfl⟩ := dispatchKey_of_decode h
    refine ⟨wellFormed_operationOf ev e, ?_⟩
    cases hctl : ev.ctl with
    | true =>
      exact .inr ⟨_, rfl, (dispatchKey_getLsbD_ctl ev e).trans hctl, encode_operationOf_of_ctl hctl e⟩
    | false =>
      cases ev with
      | byte b => exact .inl (encode_operationOf_byte b e)
      | eoi | reset => cases hctl
  | pipe f => cases f <;> cases h <;> exact ⟨rfl, .inl rfl⟩
  | frame f =>
    cases hf : valid f with
    | true => rw [decode_frame_of_valid hf] at h; cases h; exact ⟨hf, .inl rfl⟩
    | false =>
      rw [decode_frame_of_not_valid hf] at h; cases h
      exact ⟨by simp [WellFormed, Instr.wf, hf], .inl rfl⟩

/-! ## The statements on single tables -/

/-- Settles O6: the three classes by their lemmas; the block step completes on every event. -/
theorem everyByteHasOneClassAndIsLegal : Obligations.EveryByteHasOneClassAndIsLegal :=
  ⟨fun _ => ⟨byteClass_eq_flag, byteClass_eq_esc, byteClass_eq_data⟩,
    fun b s => Machine.blockStep_completes (.byte b) s⟩

/-- Settles O1: the key's three fields, its table, the reserved codes, and the fault gate. -/
theorem dispatchFollowsTheKeyTable : Obligations.DispatchFollowsTheKeyTable := by
  refine ⟨fun ev e => ⟨dispatchKey_getLsbD_esc ev e, ?ctl, ?code, ?table⟩,
    fun k hctl hcode => ⟨decode_key_of_reserved hctl hcode, dispatchKey_ne_reserved hctl hcode⟩,
    fun s ev ho hev => Machine.blockStep_stuck ho hev⟩
  case ctl => rw [dispatchKey_getLsbD_ctl]; exact ctl_iff
  case code => rw [dispatchKey_code]; cases ev <;> rfl
  case table =>
    rw [decode_dispatchKey]
    cases ev with
    | reset | eoi => rfl
    | byte b =>
      cases hb : byteClass b with
      | flag => rw [byteClass_eq_flag.mp hb]; cases e <;> rfl
      | esc => rw [byteClass_eq_esc.mp hb]; cases e <;> rfl
      | data =>
        obtain ⟨hflag, hesc⟩ : b ≠ 0x7E#8 ∧ b ≠ 0x7D#8 := byteClass_eq_data.mp hb
        cases e <;> simp [operationOf, hb, hflag, hesc]

/-- Settles O2: the gate is the length and bytes 0 and 2, and a frame is empty or not. -/
theorem framesAreClassifiedByGateAndLength : Obligations.FramesAreClassifiedByGateAndLength := by
  refine ⟨fun f hlen h0 h2 => decode_frame_of_valid ((valid_iff f).mpr ⟨hlen, h0, h2⟩), fun f h => ?_,
    decode_pipe_nil, fun f hf => ?_⟩
  · exact decode_frame_of_not_valid (Bool.not_eq_true _ ▸ mt (valid_iff f).mp h)
  · cases f with
    | nil => exact absurd rfl hf
    | cons b f => exact decode_pipe_cons b f

/-- Settles O3: the model evaluates each word. -/
theorem specWordsDecodeToTheirOperations : Obligations.SpecWordsDecodeToTheirOperations := by
  unfold Obligations.SpecWordsDecodeToTheirOperations
  decide

namespace Machine

theorem accFull_eq_false_of_room {s : State}
    (h : ∀ n, s.accCap = .bounded n → s.acc.length ≠ n) : accFull s = false := by
  refine Bool.eq_false_iff.mpr fun hfull => ?_
  obtain ⟨n, hc, hlen⟩ := accFull_iff.mp hfull
  exact h n hc hlen

end Machine

/-- Settles O17: the pair whose second byte is `b` appends `unescape b`, since `b` is its unescape's. -/
theorem everyEscapePairIsLegal : Obligations.EveryEscapePairIsLegal := by
  refine ⟨Machine.unescape_unescape, fun s b ho he hroom => ?_⟩
  have hpair := Machine.runEvents_escape_pair (unescape b) [] ho he
    (Machine.accFull_eq_false_of_room hroom)
  rw [Machine.unescape_unescape] at hpair
  exact hpair

end Sys2Proof
end

section
/-! SUPPORT. Proofs of the family `40_deframer`: the effect of each de-framer operation (spec/40_deframer.md
R92 to R99), everything one event can do to the block, and what follows for whole streams: chunking
(R100), the account of every byte (R101), escape resolution (R102, R103) and the reference functions
(R104, R154). -/

namespace Sys2Proof.Machine

variable {s t u : State} {ev : InEvent} {evs : List InEvent} {b v : Byte}

/-! ## The operations -/

theorem unescape_flag : unescape Config.flag = 0x5E#8 := rfl
theorem unescape_esc : unescape Config.esc = 0x5D#8 := rfl

/-- The two answers of an appending operation, room and bound, in the form of R93 and R95 to R97. -/
theorem appendThen_at_room_and_bound (v : Byte) (rest : State → State) (s : State) :
    ((∀ n, s.accCap = .bounded n → s.acc.length ≠ n) →
      appendThen v rest s = .next (rest { s with acc := s.acc ++ [v] }))
    ∧ ∀ n, s.accCap = .bounded n → s.acc.length = n →
      appendThen v rest s =
        .next { s with ovf := true, out := s.out ++ [.faultOut (.overflow ⟨v, n⟩)] } := by
  refine ⟨fun hroom => appendThen_of_room (accFull_eq_false_of_room hroom), ?_⟩
  rintro _ hc rfl
  exact appendThen_of_full (accFull_iff.mpr ⟨_, hc, rfl⟩)

theorem byteClass_data_of_ne (hesc : b ≠ 0x7D#8) (hflag : b ≠ 0x7E#8) : byteClass b = .data :=
  byteClass_eq_data.mpr ⟨hflag, hesc⟩

theorem exec_dfData (ho : s.ovf = false) (he : s.esc = false) (hb : byteClass b = .data) :
    exec (.dfData b) s = appendThen b id s :=
  (whenSelected_of ho he).trans (if_pos hb)

theorem exec_dfDataX (ho : s.ovf = false) (he : s.esc = true) (hb : byteClass b = .data) :
    exec (.dfDataX b) s = appendThen (unescape b) (·.setEsc false) s :=
  (whenSelected_of ho he).trans (if_pos hb)

/-- Settles O7: the row's effect where it is selected. -/
theorem flagEmitsTheAccumulatorAsAFrame : Obligations.FlagEmitsTheAccumulatorAsAFrame :=
  ⟨decodeOfEncodeIsTheOperation .dfFlag rfl, fun _ ho he => whenSelected_of ho he⟩

/-- Settles O8: the append of `unescape FLAG`, with room and at the bound. -/
theorem escapedFlagAppends5E : Obligations.EscapedFlagAppends5E := by
  refine ⟨decodeOfEncodeIsTheOperation .dfFlagX rfl, fun s ho he => ?_⟩
  rw [show exec .dfFlagX s = _ from whenSelected_of ho he, unescape_flag]
  exact appendThen_at_room_and_bound _ _ s

/-- Settles O9: the row's effect where it is selected. -/
theorem escapeByteSetsEscapePending : Obligations.EscapeByteSetsEscapePending :=
  ⟨decodeOfEncodeIsTheOperation .dfEsc rfl, fun _ ho he => whenSelected_of ho he⟩

/-- Settles O10: the append of `unescape ESC`, with room and at the bound. -/
theorem escapedEscapeAppends5D : Obligations.EscapedEscapeAppends5D := by
  refine ⟨decodeOfEncodeIsTheOperation .dfEscX rfl, fun s ho he => ?_⟩
  rw [show exec .dfEscX s = _ from whenSelected_of ho he, unescape_esc]
  exact appendThen_at_room_and_bound _ _ s

/-- Settles O11: the append of the byte itself, with room and at the bound. -/
theorem dataByteIsAppendedVerbatim : Obligations.DataByteIsAppendedVerbatim := by
  intro b hesc hflag
  have hb := byteClass_data_of_ne hesc hflag
  refine ⟨decodeOfEncodeIsTheOperation (.dfData b) (beq_iff_eq.mpr hb), fun s ho he => ?_⟩
  rw [exec_dfData ho he hb]
  exact appendThen_at_room_and_bound b id s

/-- Settles O12: the append of the byte's unescape, with room and at the bound. -/
theorem escapedDataByteIsXoredAndAppended : Obligations.EscapedDataByteIsXoredAndAppended := by
  intro b hesc hflag
  have hb := byteClass_data_of_ne hesc hflag
  refine ⟨decodeOfEncodeIsTheOperation (.dfDataX b) (beq_iff_eq.mpr hb), fun s ho he => ?_⟩
  rw [exec_dfDataX ho he hb]
  exact appendThen_at_room_and_bound (unescape b) _ s

/-- Settles O13: the operation's guard holds, and the block step is the operation. -/
theorem endOfInputDiscardsThePartialFrame : Obligations.EndOfInputDiscardsThePartialFrame :=
  ⟨decode_dispatchKey .eoi false, decode_dispatchKey .eoi true,
    fun _ ho => ⟨if_neg (Bool.eq_false_iff.mp ho), blockStep_eoi ho⟩⟩

/-- Settles O14: the operation has no guard, and the fault gate lets RESET through. -/
theorem resetIsAcceptedInEveryState : Obligations.ResetIsAcceptedInEveryState :=
  ⟨decode_dispatchKey .reset false, decode_dispatchKey .reset true, fun s => ⟨rfl, blockStep_reset s⟩⟩

/-! ## A step is its operation -/

/-- DF.FLAG is the one operation that emits a frame (R152). -/
theorem emittedFrame_of_ne_dfFlag {i : Instr} (hi : i ≠ .dfFlag) (h : exec i s = .next t) :
    emittedFrame s t = none := by
  cases exec_next h with
  | flag => exact absurd rfl hi
  | overflow => exact emittedFrame_raiseOverflow _ s
  | record => simp [emittedFrame]
  | reset | eoi | escape | append | skip => exact emittedFrame_of_out_eq rfl

theorem runOperation_of_ne_dfFlag {i : Instr} (hi : i ≠ .dfFlag) : runOperation i s = exec i s := by
  cases h : exec i s with
  | next t => exact runOperation_of_no_frame h (emittedFrame_of_ne_dfFlag hi h)
  | fault r | refused r => simp [runOperation, h]

theorem operationOf_eq_dfFlag {e : Bool} (h : operationOf ev e = .dfFlag) :
    ev = .byte Config.flag ∧ e = false := by
  cases ev with
  | reset | eoi => cases h
  | byte b =>
    cases e with
    | true => cases hb : byteClass b <;> simp [operationOf, hb] at h
    | false =>
      cases hb : byteClass b with
      | flag => exact ⟨congrArg InEvent.byte (byteClass_eq_flag.mp hb), rfl⟩
      | esc | data => simp [operationOf, hb] at h

/-- Settles O38: the operation is the event's by R80's table; DF.FLAG comes of an un-escaped flag, and
every other operation emits no frame for the composition. -/
theorem stepRunsTheDispatchedOperation : Obligations.StepRunsTheDispatchedOperation := by
  intro s ev rest i hq hgate hd
  have hi : operationOf ev s.esc = i := by
    rw [decode_dispatchKey] at hd
    exact Decoded.ok.inj hd
  have hstep : step s = blockStep ev { s with input := rest } := takeEvent_cons hq
  refine ⟨hi ▸ wellFormed_operationOf ev s.esc, fun hne => ?_, fun hflag => ?_⟩
  · have hopen : stuckOn ev { s with input := rest } = false := by
      obtain ho | rfl := hgate
      · exact stuckOn_of_clear ho
      · exact stuckOn_reset _
    rw [hstep, blockStep_of_decode hopen hd, runOperation_of_ne_dfFlag hne]
  · obtain ⟨rfl, he⟩ := operationOf_eq_dfFlag (hi.trans hflag)
    have ho : s.ovf = false := hgate.resolve_right nofun
    rw [hstep]
    exact blockStep_flag (s := { s with input := rest }) ho he

/-! ## The channels of a trace -/

section Channels

variable (x y : List OutEvent) (f : Frame) (r : FaultReport)

@[simp] theorem framesOf_append : framesOf (x ++ y) = framesOf x ++ framesOf y :=
  List.filterMap_append

@[simp] theorem recsOf_append : recsOf (x ++ y) = recsOf x ++ recsOf y := List.filterMap_append

@[simp] theorem nonEmpty_append (fs gs : List Frame) :
    nonEmpty (fs ++ gs) = nonEmpty fs ++ nonEmpty gs := List.filter_append ..

@[simp] theorem framesOf_faultOut : framesOf [.faultOut r] = [] := rfl
@[simp] theorem recsOf_faultOut : recsOf [.faultOut r] = [] := rfl
@[simp] theorem faultsOf_faultOut : faultsOf [.faultOut r] = [r] := rfl

theorem frameOutputs_cases :
    (f = [] ∧ frameOutputs f = [.frameOut f])
      ∨ ∃ r, f ≠ [] ∧ decodeFrame f = some r ∧ frameOutputs f = [.frameOut f, .recOut r] := by
  by_cases hf : f = []
  · exact .inl ⟨hf, hf ▸ rfl⟩
  · obtain ⟨r, hr⟩ := decodeFrame_completes f
    exact .inr ⟨r, hf, hr, by simp [frameOutputs, hf, hr]⟩

@[simp] theorem framesOf_frameOutputs : framesOf (frameOutputs f) = [f] := by
  obtain ⟨_, h⟩ | ⟨r, _, _, h⟩ := frameOutputs_cases f <;> rw [h] <;> rfl

@[simp] theorem faultsOf_frameOutputs : faultsOf (frameOutputs f) = [] := by
  obtain ⟨_, h⟩ | ⟨r, _, _, h⟩ := frameOutputs_cases f <;> rw [h] <;> rfl

theorem recsOf_frameOutputs :
    (recsOf (frameOutputs f)).map some = (nonEmpty [f]).map decodeFrame := by
  obtain ⟨rfl, h⟩ | ⟨r, hne, hr, h⟩ := frameOutputs_cases f
  · rfl
  · simp [h, hr, hne, nonEmpty, recsOf]

end Channels

/-! ## What one event can do -/

/-- The byte `v` that an input byte `b` appends, for `esc = e` (R63): its unescape while an escape is
pending, else itself where it is a data byte. -/
inductive Resolves : Bool → Byte → Byte → Prop
  | pending {b : Byte} : Resolves true b (unescape b)
  | data {b : Byte} (hb : byteClass b = .data) : Resolves false b b

/-- A byte completes the frame, arms the escape, or appends (R62). -/
theorem byte_cases (e : Bool) (b : Byte) :
    (e = false ∧ b = Config.flag) ∨ (e = false ∧ b = Config.esc) ∨ ∃ v, Resolves e b v := by
  cases e with
  | true => exact .inr (.inr ⟨_, .pending⟩)
  | false =>
    cases hb : byteClass b with
    | flag => exact .inl ⟨rfl, byteClass_eq_flag.mp hb⟩
    | esc => exact .inr (.inl ⟨rfl, byteClass_eq_esc.mp hb⟩)
    | data => exact .inr (.inr ⟨b, .data hb⟩)

/-- The accumulator leaves as a frame, followed by its record (R92, R152). -/
def State.completeFrame (s : State) : State :=
  { s with acc := [], out := s.out ++ frameOutputs s.acc }

@[simp] theorem completeFrame_esc (s : State) : s.completeFrame.esc = s.esc := rfl
@[simp] theorem completeFrame_acc (s : State) : s.completeFrame.acc = [] := rfl
@[simp] theorem completeFrame_accCap (s : State) : s.completeFrame.accCap = s.accCap := rfl
@[simp] theorem completeFrame_out (s : State) :
    s.completeFrame.out = s.out ++ frameOutputs s.acc := rfl

/-- Everything an event can do to the block, with the guard of each case; `blockStep_next_iff` ties it to
`blockStep`. -/
inductive BlockEffect (s : State) : InEvent → State → Prop
  | stuck {ev : InEvent} (ho : s.ovf = true) (hev : ev ≠ .reset) : BlockEffect s ev s
  | reset : BlockEffect s .reset (((s.setAcc []).setEsc false).setOvf false)
  | eoi (ho : s.ovf = false) : BlockEffect s .eoi ((s.setAcc []).setEsc false)
  | flag (ho : s.ovf = false) (he : s.esc = false) :
      BlockEffect s (.byte Config.flag) s.completeFrame
  | escape (ho : s.ovf = false) (he : s.esc = false) :
      BlockEffect s (.byte Config.esc) (s.setEsc true)
  | append {b v : Byte} (ho : s.ovf = false) (hv : Resolves s.esc b v) (hroom : accFull s = false) :
      BlockEffect s (.byte b) ((s.setAcc (s.acc ++ [v])).setEsc false)
  | overflow {b v : Byte} (ho : s.ovf = false) (hv : Resolves s.esc b v) (hfull : accFull s = true) :
      BlockEffect s (.byte b) (raiseOverflow v s)

/-- The composition gives the frame that DF.FLAG emitted its record, if it is not empty (R150, R151). -/
theorem exec_decodePipeCode_closeFrame (s : State) :
    exec (decodePipeCode s.acc) s.closeFrame = .next s.completeFrame := by
  obtain ⟨ha, hout⟩ | ⟨r, ha, hr, hout⟩ := frameOutputs_cases s.acc
  · have hcomplete : s.completeFrame = s.closeFrame := by rw [State.completeFrame, hout]; rfl
    rw [hcomplete, ha]
    rfl
  · have hcomplete : s.completeFrame = s.closeFrame.emit (.recOut r) := by
      rw [State.completeFrame, hout, State.emit, closeFrame_out, List.append_assoc]
      rfl
    have hexec : exec (decodePipeCode s.acc) s.closeFrame = deliver (decodeFrame s.acc) s.closeFrame := by
      simp [decodePipeCode, exec, execPipeDecode, ha]
    rw [hexec, hr, deliver_some, hcomplete]

theorem blockStep_flag_next (ho : s.ovf = false) (he : s.esc = false) :
    blockStep (.byte Config.flag) s = .next s.completeFrame :=
  (blockStep_flag ho he).trans (exec_decodePipeCode_closeFrame s)

/-- Escaped or not, a byte that appends leaves `esc` clear (R93, R95 to R97). -/
theorem blockStep_of_resolves (ho : s.ovf = false) (hv : Resolves s.esc b v) :
    blockStep (.byte b) s = appendThen v (·.setEsc false) s := by
  cases he : s.esc with
  | true => rw [he] at hv; cases hv; exact blockStep_pending ho he
  | false =>
    rw [he] at hv
    cases hv with
    | data hb =>
      rw [blockStep_data ho he hb, appendThen, appendThen, ← he]
      rfl

theorem blockStep_of_effect (h : BlockEffect s ev t) : blockStep ev s = .next t := by
  cases h with
  | stuck ho hev => exact blockStep_stuck ho hev
  | reset => exact blockStep_reset s
  | eoi ho => exact blockStep_eoi ho
  | flag ho he => exact blockStep_flag_next ho he
  | escape ho he => exact blockStep_esc ho he
  | append ho hv hroom => rw [blockStep_of_resolves ho hv, appendThen_of_room hroom]
  | overflow ho hv hfull => rw [blockStep_of_resolves ho hv, appendThen_of_full hfull]

theorem exists_blockEffect (ev : InEvent) (s : State) : ∃ t, BlockEffect s ev t := by
  cases ho : s.ovf with
  | true =>
    by_cases hev : ev = .reset
    · subst hev; exact ⟨_, .reset⟩
    · exact ⟨_, .stuck ho hev⟩
  | false =>
    cases ev with
    | reset => exact ⟨_, .reset⟩
    | eoi => exact ⟨_, .eoi ho⟩
    | byte b =>
      obtain ⟨he, rfl⟩ | ⟨he, rfl⟩ | ⟨v, hv⟩ := byte_cases s.esc b
      · exact ⟨_, .flag ho he⟩
      · exact ⟨_, .escape ho he⟩
      · cases hf : accFull s with
        | true => exact ⟨_, .overflow ho hv hf⟩
        | false => exact ⟨_, .append ho hv hf⟩

theorem blockStep_next_iff : blockStep ev s = .next t ↔ BlockEffect s ev t := by
  refine ⟨fun h => ?_, blockStep_of_effect⟩
  obtain ⟨u, hu⟩ := exists_blockEffect ev s
  rw [blockStep_of_effect hu] at h
  cases h; exact hu

theorem runEvents_cons_of_effect (h : BlockEffect s ev t) :
    runEvents (ev :: evs) s = runEvents evs t :=
  runEvents_cons_of_next (blockStep_of_effect h)

/-- The first event of a run that completes, and the rest of it. -/
theorem runEvents_cons_next (h : runEvents (ev :: evs) s = .next t) :
    ∃ u, BlockEffect s ev u ∧ runEvents evs u = .next t := by
  obtain ⟨u, hu⟩ := exists_blockEffect ev s
  exact ⟨u, hu, runEvents_cons_of_effect hu ▸ h⟩

theorem runEvents_append {evs' : List InEvent} (h : runEvents evs s = .next t) :
    runEvents (evs ++ evs') s = runEvents evs' t := by
  induction evs generalizing s with
  | nil => cases h; rfl
  | cons ev evs ih =>
    obtain ⟨u, hu, h⟩ := runEvents_cons_next h
    rw [List.cons_append, runEvents_cons_of_effect hu]
    exact ih h

theorem runEvents_grows_out (h : runEvents evs s = .next t) : s.out <+: t.out := by
  refine runEvents_keeps (P := (s.out <+: ·.out)) (fun hp hx => ?_) ⟨[], List.append_nil _⟩ h
  obtain ⟨-, -, new, hout, -⟩ := effect_keeps_accCap_input_grows_out (exec_next hx)
  exact hp.trans ⟨new, hout.symm⟩

theorem runEvents_keeps_input (h : runEvents evs s = .next t) : t.input = s.input := by
  refine runEvents_keeps (P := (·.input = s.input)) (fun hp hx => ?_) rfl h
  obtain ⟨-, hinput, -⟩ := effect_keeps_accCap_input_grows_out (exec_next hx)
  exact hinput.trans hp

/-! ## Chunking -/

/-- The block does not look at the queue (R60). -/
theorem blockEffect_with_input (q : List InEvent) (h : BlockEffect s ev t) :
    BlockEffect { s with input := q } ev { t with input := q } := by
  cases h with
  | stuck ho hev => exact .stuck ho hev
  | reset => exact .reset
  | eoi ho => exact .eoi ho
  | flag ho he => exact .flag ho he
  | escape ho he => exact .escape ho he
  | append ho hv hroom => exact .append (s := { s with input := q }) ho hv hroom
  | overflow ho hv hfull => exact .overflow (s := { s with input := q }) ho hv hfull

theorem State.present_of_input_nil (evs : List InEvent) (hq : s.input = []) :
    s.present evs = { s with input := evs } := by
  rw [State.present, hq, List.nil_append]

@[simp] theorem feed_cons (b : Byte) (bs : List Byte) : feed (b :: bs) = .byte b :: feed bs := rfl

@[simp] theorem feed_append (as bs : List Byte) : feed (as ++ bs) = feed as ++ feed bs :=
  List.map_append

@[simp] theorem length_feed (bs : List Byte) : (feed bs).length = bs.length := List.length_map _

/-- Presenting events on an empty queue and running them all is the fold of the block step. -/
theorem runSteps_present (evs : List InEvent) (hq : s.input = []) :
    runSteps evs.length (s.present evs) = runEvents evs s := by
  induction evs generalizing s with
  | nil => simp [runSteps, runEvents, State.present]
  | cons ev evs ih =>
    obtain ⟨u, hu⟩ := exists_blockEffect ev s
    have huq : u.input = [] :=
      (runEvents_keeps_input (runEvents_cons_of_effect (evs := []) hu)).trans hq
    have htake : takeEvent (s.present (ev :: evs)) = .next (u.present evs) := by
      rw [State.present_of_input_nil _ hq, State.present_of_input_nil _ huq]
      exact (takeEvent_cons rfl).trans
        (blockStep_of_effect (s := { s with input := evs }) (blockEffect_with_input evs hu))
    rw [List.length_cons, runSteps_succ_of_next htake, ih huq, runEvents_cons_of_effect hu]

theorem runSteps_present_feed (bs : List Byte) (hq : s.input = []) :
    runSteps bs.length (s.present (feed bs)) = runEvents (feed bs) s :=
  length_feed bs ▸ runSteps_present (feed bs) hq

theorem runChunks_eq_runEvents (cs : List (List Byte)) (hq : s.input = []) :
    runChunks cs s = runEvents (feed cs.flatten) s := by
  induction cs generalizing s with
  | nil => rfl
  | cons c cs ih =>
    obtain ⟨u, hu⟩ := runEvents_completes (feed c) s
    have hc : runSteps c.length (s.present (feed c)) = .next u :=
      (runSteps_present_feed c hq).trans hu
    rw [runChunks, hc, List.flatten_cons, feed_append, runEvents_append hu]
    exact ih ((runEvents_keeps_input hu).trans hq)

/-- Settles O42: both ways are the fold of the block step over the whole string. -/
theorem chunkingIsUnobservable : Obligations.ChunkingIsUnobservable := by
  intro s cs hq
  obtain ⟨t, ht⟩ := runEvents_completes (feed cs.flatten) s
  exact ⟨t, (runChunks_eq_runEvents cs hq).trans ht, (runSteps_present_feed _ hq).trans ht⟩

/-! ## The account of every byte -/

section Reference

variable {e : Bool} (hv : Resolves e b v) (cur : Frame) (evs : List InEvent) (bs : List Byte)
include hv

theorem fates_of_resolves : fates e cur (.byte b :: evs) = fates false (cur ++ [v]) evs := by
  cases hv with
  | pending => rfl
  | data hb => simp [fates, hb]

theorem payload_of_resolves : payload e (.byte b :: evs) = v :: payload false evs := by
  cases hv with
  | pending => rfl
  | data hb => simp [payload, hb]

theorem deframeFrom_of_resolves : deframeFrom e cur (b :: bs) = deframeFrom false (cur ++ [v]) bs := by
  cases hv with
  | pending => rfl
  | data hb => simp [deframeFrom, hb]

theorem resolve_of_resolves :
    resolve e (b :: bs) = (resolve false bs).map fun r => (v :: r.1, r.2) := by
  cases hv with
  | pending => rfl
  | data hb => simp [resolve, hb]

end Reference

/-- The account of one event with no fault: it settles fates `fs`, appends bytes `p`, and leaves the rest
of the account to the events after it. -/
theorem blockEffect_accounted (h : BlockEffect s ev u) (ho : s.ovf = false)
    (hf : faultsOf u.out = faultsOf s.out) (evs : List InEvent) :
    ∃ fs p, u.ovf = false
      ∧ fates s.esc s.acc (ev :: evs) = fs ++ fates u.esc u.acc evs
      ∧ payload s.esc (ev :: evs) = p ++ payload u.esc evs
      ∧ framesOf u.out = framesOf s.out ++ emittedFrames fs
      ∧ fs.flatMap Fate.bytes ++ u.acc = s.acc ++ p := by
  cases h with
  | stuck ho' => rw [ho] at ho'; cases ho'
  | overflow => simp at hf
  | reset | eoi =>
    exact ⟨[.discarded s.acc], [], by simp [ho], by simp [fates], by simp [payload],
      by simp [emittedFrames], by simp [Fate.bytes]⟩
  | flag _ he =>
    exact ⟨[.emitted s.acc], [], ho, by simp [fates, he], by simp [payload, he],
      by simp [emittedFrames], by simp [Fate.bytes]⟩
  | escape _ he =>
    exact ⟨[], [], ho, by simp [fates, he], by simp [payload, he], by simp [emittedFrames], by simp⟩
  | append _ hv =>
    exact ⟨[], [_], ho, fates_of_resolves hv _ _, payload_of_resolves hv _, by simp [emittedFrames],
      by simp⟩

theorem runEvents_grows_faults (h : runEvents evs s = .next t) :
    faultsOf s.out <+: faultsOf t.out :=
  (runEvents_grows_out h).filterMap _

/-- A fault, once reported, stays in the trace, so a run without one is a run of events without one. -/
theorem runEvents_accounted (ho : s.ovf = false) (h : runEvents evs s = .next t)
    (hf : faultsOf t.out = faultsOf s.out) :
    t.ovf = false
    ∧ framesOf t.out = framesOf s.out ++ emittedFrames (fates s.esc s.acc evs)
    ∧ (fates s.esc s.acc evs).flatMap Fate.bytes ++ t.acc = s.acc ++ payload s.esc evs := by
  induction evs generalizing s with
  | nil => cases h; exact ⟨ho, by simp [fates, emittedFrames], by simp [fates, payload]⟩
  | cons ev evs ih =>
    obtain ⟨u, hu, h⟩ := runEvents_cons_next h
    have hsu := runEvents_grows_faults (runEvents_cons_of_effect (evs := []) hu)
    have hut := runEvents_grows_faults h
    have hfu : faultsOf u.out = faultsOf s.out :=
      (hsu.eq_of_length_le (hf ▸ hut.length_le)).symm
    obtain ⟨fs, p, huo, hfates, hpayload, hframes, hbytes⟩ := blockEffect_accounted hu ho hfu evs
    obtain ⟨hto, hframes', hbytes'⟩ := ih huo h (hf.trans hfu.symm)
    rw [hfates, hpayload]
    refine ⟨hto, ?_, ?_⟩
    · simp [hframes', hframes, emittedFrames]
    · rw [List.flatMap_append, List.append_assoc, hbytes', ← List.append_assoc, hbytes,
        List.append_assoc]

/-- Settles O43: with no bound no fault is raised (R25), and with no fault every event is accounted for. -/
theorem bytesAreAccountedForExactly : Obligations.BytesAreAccountedForExactly := by
  intro evs s ho
  obtain ⟨t, h⟩ := runEvents_completes evs s
  refine ⟨t, h, fun hnofault => runEvents_accounted ho h ?_⟩
  obtain hc | hf := hnofault
  · have hsince : FaultFreeSince s t := runEvents_keeps exec_keeps_faultFreeSince ⟨ho, hc, rfl⟩ h
    obtain ⟨-, -, hf⟩ := hsince
    exact hf
  · exact hf

/-! ## Escape resolution -/

/-- The bytes of a resolvable string append their resolution, where there is room for it. -/
theorem runEvents_feed_of_resolve {e : Bool} {m r : List Byte} (evs : List InEvent)
    (ho : s.ovf = false) (hm : resolve s.esc m = some (r, e))
    (hroom : ∀ n, s.accCap = .bounded n → s.acc.length + r.length ≤ n) :
    runEvents (feed m ++ evs) s = runEvents evs ((s.setAcc (s.acc ++ r)).setEsc e) := by
  induction m generalizing s r with
  | nil =>
    cases hm
    rw [List.append_nil]
    rfl
  | cons b m ih =>
    obtain ⟨he, rfl⟩ | ⟨he, rfl⟩ | ⟨v, hv⟩ := byte_cases s.esc b
    · simp [he, resolve] at hm
    · have hm' : resolve true m = some (r, e) := by simpa [he, resolve] using hm
      rw [feed_cons, List.cons_append, runEvents_cons_of_effect (.escape ho he)]
      exact ih (s := s.setEsc true) ho hm' hroom
    · rw [resolve_of_resolves hv] at hm
      obtain ⟨⟨r', e'⟩, hm', hr⟩ := Option.map_eq_some_iff.mp hm
      cases hr
      have hfree : accFull s = false := by
        refine accFull_eq_false_of_room fun n hc hlen => ?_
        have hle := hroom n hc
        rw [List.length_cons] at hle
        omega
      rw [feed_cons, List.cons_append, runEvents_cons_of_effect (.append ho hv hfree),
        ih (s := (s.setAcc (s.acc ++ [v])).setEsc false) ho hm' fun n hc => ?_]
      · rw [State.setEsc_acc, State.setAcc_acc, List.append_assoc]
        rfl
      · simpa [Nat.add_assoc, Nat.add_comm 1] using hroom n hc

theorem runEvents_feed_flag_of_resolve {m r : List Byte} (ho : s.ovf = false) (he : s.esc = false)
    (hm : resolve false m = some (r, false))
    (hroom : ∀ n, s.accCap = .bounded n → s.acc.length + r.length ≤ n) :
    runEvents (feed (m ++ [Config.flag])) s =
      .next { s with acc := [], out := s.out ++ frameOutputs (s.acc ++ r) } := by
  have hm' : resolve s.esc m = some (r, s.esc) := he.symm ▸ hm
  rw [feed_append, runEvents_feed_of_resolve _ ho hm' hroom]
  exact runEvents_cons_of_effect (.flag ho he)

theorem resolve_escapeByte (v : Byte) (bs : List Byte) :
    resolve false (escapeByte v ++ bs) = (resolve false bs).map fun r => (v :: r.1, r.2) := by
  unfold escapeByte
  split
  · have hpair := resolve_of_resolves (.pending (b := v ^^^ Config.mask)) bs
    rw [show unescape (v ^^^ Config.mask) = v from unescape_unescape v] at hpair
    exact hpair
  · rename_i hne
    rw [not_or] at hne
    exact resolve_of_resolves (.data (byteClass_data_of_ne hne.1 hne.2)) bs

theorem resolve_escape_payload (p : List Byte) :
    resolve false (p.flatMap escapeByte) = some (p, false) := by
  induction p with
  | nil => rfl
  | cons v p ih => rw [List.flatMap_cons, resolve_escapeByte, ih]; rfl

/-- Settles O44: escaping is undone by resolution, and the flag ends the frame. -/
theorem escapeRoundTrip : Obligations.EscapeRoundTrip := by
  rintro p ⟨_, _, _, _, _, _⟩ rfl rfl rfl hroom
  refine ⟨?_, framesOf_frameOutputs p⟩
  exact runEvents_feed_flag_of_resolve rfl rfl (resolve_escape_payload p) (by simpa using hroom)

/-- Settles O45: the first flag empties the accumulator, which then fills with the resolution. -/
theorem frameBetweenTwoFlagsIsTheResolution : Obligations.FrameBetweenTwoFlagsIsTheResolution := by
  intro s m r ho he hm hroom
  refine (runEvents_cons_of_effect (.flag ho he)).trans ?_
  exact runEvents_feed_flag_of_resolve (s := s.completeFrame) ho he hm (by simpa using hroom)

/-! ## The reference functions -/

theorem emittedFrames_fates_feed (e : Bool) (cur : Frame) (bs : List Byte) :
    emittedFrames (fates e cur (feed bs)) = deframeFrom e cur bs := by
  induction bs generalizing e cur with
  | nil => rfl
  | cons b bs ih =>
    rw [feed_cons]
    obtain ⟨rfl, rfl⟩ | ⟨rfl, rfl⟩ | ⟨v, hv⟩ := byte_cases e b
    · exact congrArg (cur :: ·) (ih false [])
    · exact ih true cur
    · rw [fates_of_resolves hv, deframeFrom_of_resolves hv]
      exact ih false (cur ++ [v])

/-- A flag adds a frame and its record; no other event adds either (R153). -/
theorem blockEffect_keeps_paired (hs : s.paired) (h : BlockEffect s ev t) : t.paired := by
  unfold State.paired at hs ⊢
  cases h with
  | flag =>
    rw [completeFrame_out, recsOf_append, framesOf_append, nonEmpty_append, List.map_append,
      List.map_append, hs, recsOf_frameOutputs, framesOf_frameOutputs]
  | overflow => simpa using hs
  | stuck | reset | eoi | escape | append => exact hs

theorem runEvents_keeps_paired (hs : s.paired) (h : runEvents evs s = .next t) : t.paired := by
  induction evs generalizing s with
  | nil => cases h; exact hs
  | cons ev evs ih =>
    obtain ⟨u, hu, h⟩ := runEvents_cons_next h
    exact ih (blockEffect_keeps_paired hs hu) h

/-- On the bytes of a stream, from the reset state with no bound and an empty trace, no fault is raised:
the frames are those of the bytes' fates, and the records their pairs (R104, R154). -/
theorem runEvents_feed_from_reset (bs : List Byte) (hs : s.blockIsReset) (hc : s.accCap = .unbounded)
    (hout : s.out = []) :
    ∃ t, runEvents (feed bs) s = .next t ∧ t.ovf = false ∧ framesOf t.out = deframe bs
      ∧ (recsOf t.out).map some = records bs ∧ faultsOf t.out = [] := by
  obtain ⟨he, ha, ho⟩ := hs
  obtain ⟨t, h, hto, -, hf⟩ := unboundedAccumulatorNeverFaults (feed bs) s hc ho
  obtain ⟨-, hframes, -⟩ := runEvents_accounted ho h hf
  rw [he, ha, hout, emittedFrames_fates_feed] at hframes
  have hpaired : t.paired := runEvents_keeps_paired (by rw [State.paired, hout]; rfl) h
  rw [State.paired, hframes] at hpaired
  exact ⟨t, h, hto, hframes, hpaired, by rw [hf, hout]; rfl⟩

/-- Settles O46: RESET leaves the reset state, and EOI after the bytes leaves it again, with no output. -/
theorem blockRefinesTheReferenceFunctions : Obligations.BlockRefinesTheReferenceFunctions := by
  intro bs s hc hout
  obtain ⟨t, h, ho, hframes, hrecs, hfaults⟩ :=
    runEvents_feed_from_reset (s := ((s.setAcc []).setEsc false).setOvf false) bs ⟨rfl, rfl, rfl⟩ hc hout
  rw [List.cons_append, runEvents_cons_of_effect .reset, runEvents_append h]
  exact ⟨_, runEvents_cons_of_effect (.eoi ho), hframes, hrecs, hfaults, rfl, rfl, ho⟩

end Sys2Proof.Machine
end

section
/-! SUPPORT. Proofs of the family `41_decoder`: the cut at a separator and the stripping of the message
(spec/41_decoder.md R124, R127), the fields read from the header (R128, R129), and the decoder's result
(R120 to R123, R125, R126, R130, R131). -/

namespace Sys2Proof

variable {f g : Frame} {s m r : List Byte}

/-! ## The cut at the first separator -/

theorem findByte_of_notMem (h : 0x00#8 ∉ s) : findByte s 0x00#8 = none :=
  List.findIdx?_eq_none_iff.mpr fun _ hb => beq_false_of_ne (ne_of_mem_of_not_mem hb h)

theorem findByte_append_sep {a : List Byte} (b : List Byte) (h : 0x00#8 ∉ a) :
    findByte (a ++ 0x00#8 :: b) 0x00#8 = some a.length := by
  have hnone : a.findIdx? (· == 0x00#8) = none := findByte_of_notMem h
  simp [findByte, List.findIdx?_append, List.findIdx?_cons, hnone]

theorem splitAtSep_of_notMem (h : 0x00#8 ∉ s) : splitAtSep s = (s, []) := by
  simp [splitAtSep, findByte_of_notMem h]

theorem splitAtSep_append_sep {a : List Byte} (b : List Byte) (h : 0x00#8 ∉ a) :
    splitAtSep (a ++ 0x00#8 :: b) = (a, b) := by
  simp [splitAtSep, findByte_append_sep b h]

/-- Settles O25: the sequence without a separator, and the sequence with its first one in view. -/
theorem splitIsAtTheFirstSeparator : Obligations.SplitIsAtTheFirstSeparator :=
  ⟨fun _ => splitAtSep_of_notMem, fun _ b => splitAtSep_append_sep b⟩

/-- Everything the cut can be. -/
theorem splitAtSep_cases (s : List Byte) :
    (0x00#8 ∉ s ∧ splitAtSep s = (s, []))
    ∨ ∃ a b, 0x00#8 ∉ a ∧ s = a ++ 0x00#8 :: b ∧ splitAtSep s = (a, b) := by
  by_cases h : 0x00#8 ∈ s
  · obtain ⟨a, b, rfl, ha⟩ := List.eq_append_cons_of_mem h
    exact .inr ⟨a, b, ha, rfl, splitAtSep_append_sep b ha⟩
  · exact .inl ⟨h, splitAtSep_of_notMem h⟩

theorem sep_notMem_splitAtSep_fst (s : List Byte) : 0x00#8 ∉ (splitAtSep s).1 := by
  obtain ⟨h, heq⟩ | ⟨a, b, h, -, heq⟩ := splitAtSep_cases s <;> rw [heq] <;> exact h

theorem splitAtSep_fst_prefix (s : List Byte) : (splitAtSep s).1 <+: s := by
  obtain ⟨-, heq⟩ | ⟨a, b, -, rfl, heq⟩ := splitAtSep_cases s <;> rw [heq]
  exact List.prefix_append a _

theorem length_splitAtSep_le (s : List Byte) :
    (splitAtSep s).1.length + (splitAtSep s).2.length ≤ s.length := by
  obtain ⟨-, heq⟩ | ⟨a, b, -, rfl, heq⟩ := splitAtSep_cases s <;> rw [heq] <;> simp

/-! ## The newlines at the end -/

/-- The stripping is the library's `List.rdropWhile`, whose lemmas say the rest. -/
theorem stripNL_eq_rdropWhile (m : List Byte) : stripNL m = m.rdropWhile (· == 0x0A#8) := rfl

theorem stripNL_prefix (m : List Byte) : stripNL m <+: m := List.rdropWhile_prefix _ m

theorem getLast?_stripNL_ne (m : List Byte) : (stripNL m).getLast? ≠ some 0x0A#8 := by
  intro h
  have hne : m.rdropWhile (· == 0x0A#8) ≠ [] := fun hnil => by
    rw [stripNL_eq_rdropWhile, hnil] at h
    cases h
  exact List.rdropWhile_last_not _ m hne
    (beq_iff_eq.mpr (Option.some.inj ((List.getLast?_eq_some_getLast hne).symm.trans h)))

theorem eq_stripNL_append_replicate (m : List Byte) :
    ∃ k, m = stripNL m ++ List.replicate k 0x0A#8 := by
  have hnl : ∀ b ∈ m.rtakeWhile (· == 0x0A#8), b = 0x0A#8 := fun _ hb =>
    beq_iff_eq.mp (List.mem_rtakeWhile_imp (p := (· == 0x0A#8)) hb)
  refine ⟨(m.rtakeWhile (· == 0x0A#8)).length, ?_⟩
  rw [← List.eq_replicate_of_mem hnl]
  exact List.rdropWhile_append_rtakeWhile.symm

/-- Settles O27: what is removed is a run of newlines, and none is left at the end. -/
theorem stripRemovesExactlyTheTrailingNewlines : Obligations.StripRemovesExactlyTheTrailingNewlines :=
  fun m => ⟨eq_stripNL_append_replicate m, getLast?_stripNL_ne m⟩

/-! ## The fields of the trailer -/

theorem message_eq (h : splitAtSep (trailer f) = (m, r)) : message f = stripNL m := by
  rw [message, h]

theorem sourceFile_eq (h : splitAtSep (trailer f) = (m, r)) : sourceFile f = (splitAtSep r).1 := by
  rw [sourceFile, h]

/-- Settles O26: the message ends at the first separator of the trailer, the source file at the second. -/
theorem trailerIsSplitAtItsFirstTwoSeparators : Obligations.TrailerIsSplitAtItsFirstTwoSeparators := by
  intro f m sf rest hm hsf
  have hone (r : List Byte) (h : f.drop 20 = m ++ 0x00#8 :: r) :
      splitAtSep (trailer f) = (m, r) := by
    rw [trailer, h]
    exact splitAtSep_append_sep r hm
  refine ⟨fun h => ?_, fun h => ?_, fun h => ?_⟩
  · have hnone : splitAtSep (trailer f) = (m, []) := by
      rw [trailer, h]
      exact splitAtSep_of_notMem hm
    exact ⟨message_eq hnone, sourceFile_eq hnone⟩
  · refine ⟨message_eq (hone _ h), ?_⟩
    rw [sourceFile_eq (hone _ h), splitAtSep_of_notMem hsf]
  · refine ⟨message_eq (hone _ h), ?_⟩
    rw [sourceFile_eq (hone _ h), splitAtSep_append_sep rest hsf]

theorem message_prefix_trailer (f : Frame) : message f <+: trailer f :=
  (stripNL_prefix _).trans (splitAtSep_fst_prefix _)

theorem sep_notMem_message (f : Frame) : 0x00#8 ∉ message f := fun h =>
  sep_notMem_splitAtSep_fst (trailer f) ((stripNL_prefix _).subset h)

theorem length_message_add_sourceFile_le (f : Frame) :
    (message f).length + (sourceFile f).length ≤ f.length - 20 := by
  have hmsg : (message f).length ≤ (splitAtSep (trailer f)).1.length := (stripNL_prefix _).length_le
  have hsf : (sourceFile f).length ≤ (splitAtSep (trailer f)).2.length :=
    (splitAtSep_fst_prefix _).length_le
  have hparts := length_splitAtSep_le (trailer f)
  have hlen : (trailer f).length = f.length - 20 := List.length_drop
  omega

/-! ## The fields of the header -/

/-- A read of one byte more: its first byte is the least significant (R17). -/
theorem littleEndian_read_succ {off : Nat} (n : Nat) (h : off < f.length) :
    littleEndian ((f.drop off).take (n + 1)) =
      f[off].toNat ||| littleEndian ((f.drop (off + 1)).take n) <<< 8 := by
  rw [List.drop_eq_getElem_cons h, List.take_succ_cons, littleEndian, Nat.or_comm,
    ← Nat.shiftLeft_add_eq_or_of_lt f[off].isLt, Nat.shiftLeft_eq, Nat.mul_comm, Nat.add_comm]

theorem littleEndian_read_zero (off : Nat) : littleEndian ((f.drop off).take 0) = 0 := by
  rw [List.take_zero, littleEndian]

theorem read_eq_of_agree {off n : Nat} (h : ∀ k, off ≤ k → k < off + n → f[k]? = g[k]?) :
    (f.drop off).take n = (g.drop off).take n := by
  refine List.ext_getElem? fun k => ?_
  by_cases hk : k < n
  · simp only [List.getElem?_take_of_lt hk, List.getElem?_drop]
    exact h _ (by omega) (by omega)
  · simp [hk]

theorem trailer_eq_of_agree (h : ∀ k, 20 ≤ k → f[k]? = g[k]?) : trailer f = trailer g :=
  List.ext_getElem? fun k => by simpa [trailer] using h (20 + k) (by omega)

/-- The gate does not look at byte 1. -/
theorem valid_set_one (f : Frame) (b : Byte) : valid (f.set 1 b) = valid f := by
  simp [valid, frameByte]

namespace Machine

/-! ## The decoder's result -/

/-- The result on a frame that passes the gate: both reads lie inside it (R41). -/
theorem decodeFrame_log (h : valid f = true) :
    decodeFrame f = some (.log (BitVec.ofNat 32 (littleEndian ((f.drop 6).take 4)))
      (BitVec.ofNat 16 (littleEndian ((f.drop 12).take 2))) (message f) (sourceFile f)) := by
  have hlen := minLen_le_of_valid h
  rw [decodeFrame_of_valid h, pdLog, timestamp, lineNumber,
    memRead_of_le (show 6 + 4 ≤ f.length by omega), memRead_of_le (show 12 + 2 ≤ f.length by omega)]
  rfl

theorem fields_of_decodeFrame_log {ts : BitVec 32} {ln : BitVec 16} {msg sf : List Byte}
    (h : decodeFrame f = some (.log ts ln msg sf)) : msg = message f ∧ sf = sourceFile f := by
  by_cases hf : valid f = true
  · rw [decodeFrame_log hf] at h
    cases h
    exact ⟨rfl, rfl⟩
  · rw [decodeFrame_of_not_valid hf] at h
    cases h

theorem eq_of_decodeFrame_unrec (h : decodeFrame f = some (.unrec g)) : g = f := by
  by_cases hf : valid f = true
  · rw [decodeFrame_log hf] at h
    cases h
  · rw [decodeFrame_of_not_valid hf] at h
    cases h
    rfl

/-- Settles O22: the six header bytes exist, and each field is the little-endian value of its bytes. -/
theorem logFrameDecodesToItsRecord : Obligations.LogFrameDecodesToItsRecord := by
  intro f hlen h0 h2
  have hf : valid f = true := (valid_iff f).mpr ⟨hlen, h0, h2⟩
  have hbyte (k : Nat) (hk : k < 24) : f[k]? = some (f[k]'(by omega)) :=
    List.getElem?_eq_getElem _
  refine ⟨decode_frame_of_valid hf, _, _, _, _, _, _, hbyte 6 (by decide), hbyte 7 (by decide),
    hbyte 8 (by decide), hbyte 9 (by decide), hbyte 12 (by decide), hbyte 13 (by decide), ?_⟩
  have hts : littleEndian ((f.drop 6).take 4) =
      f[6].toNat ||| f[7].toNat <<< 8 ||| f[8].toNat <<< 16 ||| f[9].toNat <<< 24 := by
    rw [littleEndian_read_succ 3 (by omega), littleEndian_read_succ 2 (by omega),
      littleEndian_read_succ 1 (by omega), littleEndian_read_succ 0 (by omega), littleEndian_read_zero]
    simp [Nat.shiftLeft_or_distrib, ← Nat.shiftLeft_add, Nat.or_assoc]
  have hln : littleEndian ((f.drop 12).take 2) = f[12].toNat ||| f[13].toNat <<< 8 := by
    rw [littleEndian_read_succ 1 (by omega), littleEndian_read_succ 0 (by omega), littleEndian_read_zero]
    simp
  rw [decodeFrame_log hf, hts, hln]
  rfl

/-- Settles O28: the two widths are those of the fields' types; the rest are facts of the trailer. -/
theorem decodedFieldsAreBounded : Obligations.DecodedFieldsAreBounded := by
  refine ⟨fun f ts ln msg sf h => ?_, fun f g => eq_of_decodeFrame_unrec⟩
  obtain ⟨rfl, rfl⟩ := fields_of_decodeFrame_log h
  obtain ⟨rest, hrest⟩ := message_prefix_trailer f
  exact ⟨ts.isLt, ln.isLt, sep_notMem_message f, getLast?_stripNL_ne _, sep_notMem_splitAtSep_fst _,
    length_message_add_sourceFile_le f, rest, hrest.symm⟩

/-- Settles O29: each field is a function of bytes at offsets outside the list. -/
theorem unreadHeaderBytesHaveNoEffect : Obligations.UnreadHeaderBytesHaveNoEffect := by
  refine ⟨fun f g hf hg _ hagree => ?_, valid_set_one⟩
  have hread (k : Nat) (hk : 6 ≤ k ∧ k < 10 ∨ 12 ≤ k ∧ k < 14 ∨ 20 ≤ k) : f[k]? = g[k]? :=
    hagree k (by simp; omega)
  have hts : (f.drop 6).take 4 = (g.drop 6).take 4 :=
    read_eq_of_agree fun k hlo hhi => hread k (.inl ⟨hlo, hhi⟩)
  have hln : (f.drop 12).take 2 = (g.drop 12).take 2 :=
    read_eq_of_agree fun k hlo hhi => hread k (.inr (.inl ⟨hlo, hhi⟩))
  have htrailer : trailer f = trailer g := trailer_eq_of_agree fun k hk => hread k (.inr (.inr hk))
  rw [decodeFrame_log hf, decodeFrame_log hg, hts, hln, message, message, sourceFile, sourceFile, htrailer]

/-- Settles O23: a frame passes the gate or not. -/
theorem decoderIsTotal : Obligations.DecoderIsTotal := by
  intro f
  rw [← valid_iff]
  exact ⟨fun hf => ⟨_, _, _, _, decodeFrame_log hf, rfl⟩, fun hf =>
    ⟨decode_frame_of_not_valid (Bool.not_eq_true _ ▸ hf), decodeFrame_of_not_valid hf, rfl⟩⟩

/-! ## The operations -/

theorem exec_pdLog (h : valid f = true) (s : State) : exec (.pdLog f) s = deliver (decodeFrame f) s := by
  rw [decodeFrame_of_valid h]
  exact if_pos h

theorem exec_pdUnrec (h : ¬ valid f = true) (s : State) :
    exec (.pdUnrec f) s = deliver (decodeFrame f) s := by
  rw [decodeFrame_of_not_valid h]
  exact if_neg h

theorem exec_pipeDecode (h : f ≠ []) (s : State) :
    exec (.pipeDecode f) s = deliver (decodeFrame f) s := if_neg (mt List.isEmpty_iff.mp h)

/-- The operation that R81 selects delivers the decoder's result. -/
theorem exec_decodeFrameCode (f : Frame) (s : State) :
    exec (decodeFrameCode f) s = deliver (decodeFrame f) s := by
  unfold decodeFrameCode
  split
  · exact exec_pdLog ‹_› s
  · exact exec_pdUnrec ‹_› s

/-- Settles O24: each of the three operations delivers the decoder's result. -/
theorem decoderOperationsEmitTheirResult : Obligations.DecoderOperationsEmitTheirResult := by
  refine ⟨fun f s hlen h0 h2 => ?_, fun f s h => ?_, fun f s i hne hi => ?_⟩
  · have hf : valid f = true := (valid_iff f).mpr ⟨hlen, h0, h2⟩
    refine ⟨_, decodeFrame_log hf, rfl, ?_⟩
    rw [exec_pdLog hf, decodeFrame_log hf]
    rfl
  · have hf : ¬ valid f = true := mt (valid_iff f).mp h
    rw [exec_pdUnrec hf, decodeFrame_of_not_valid hf]
    rfl
  · cases hi
    rw [exec_decodeFrameCode, exec_pipeDecode hne]

end Machine

end Sys2Proof
end

section
/-! SUPPORT. Proofs of the family `42_pipeline`: the composition's operations (spec/42_pipeline.md R150,
R151), the outputs of one step (R152, R153, R158), the end of a run (R161), and the rendering of a record
(R156, R157). -/

namespace Sys2Proof.Machine

variable {s t : State} {ev : InEvent} {b v : Byte}

/-! ## The step -/

/-- The inversion of `step`: an empty queue, or what the oldest event can do. -/
theorem step_next (h : step s = .next t) :
    (s.input = [] ∧ t = s) ∨
      ∃ ev rest, s.input = ev :: rest ∧ BlockEffect { s with input := rest } ev t := by
  unfold step at h
  cases hq : s.input with
  | nil => rw [takeEvent_nil hq] at h; cases h; exact .inl ⟨rfl, rfl⟩
  | cons ev rest => rw [takeEvent_cons hq] at h; exact .inr ⟨ev, rest, rfl, blockStep_next_iff.mp h⟩

/-- Settles O34: the trace is the same, or it grows by what one event adds. -/
theorem recordsStayPairedWithFrames : Obligations.RecordsStayPairedWithFrames := by
  intro s t hs h
  obtain ⟨-, rfl⟩ | ⟨ev, rest, -, hev⟩ := step_next h
  · exact hs
  · exact blockEffect_keeps_paired (s := { s with input := rest }) hs hev

/-! ## The outputs of one step -/

theorem room_of_accFull_eq_false (h : accFull s = false) (n : Nat) (hc : s.accCap = .bounded n) :
    s.acc.length ≠ n :=
  fun hlen => Bool.eq_false_iff.mp h (accFull_iff.mpr ⟨n, hc, hlen⟩)

theorem pending_or_data_of_resolves {e : Bool} (h : Resolves e b v) :
    e = true ∨ (b ≠ 0x7D#8 ∧ b ≠ 0x7E#8) := by
  cases h with
  | pending => exact .inl rfl
  | data hb => exact .inr (byteClass_eq_data.mp hb).symm

theorem eq_ite_of_resolves {e : Bool} (h : Resolves e b v) :
    v = if e then b ^^^ 0x20#8 else b := by
  cases h <;> rfl

/-- Settles O33: each effect of an event has its outputs and its guard. -/
theorem stepOutputsComeInTheFixedOrder : Obligations.StepOutputsComeInTheFixedOrder := by
  intro ev s t h
  cases blockStep_next_iff.mp h with
  | stuck ho => exact .inl ⟨rfl, .inr (.inr (.inl ho))⟩
  | reset => exact .inl ⟨rfl, .inl rfl⟩
  | eoi => exact .inl ⟨rfl, .inr (.inl rfl)⟩
  | flag ho he =>
    refine .inr (.inl ⟨rfl, he, ho, rfl, ?_⟩)
    rw [completeFrame_out]
    obtain ⟨ha, hout⟩ | ⟨r, ha, hr, hout⟩ := frameOutputs_cases s.acc
    · exact .inl ⟨ha, by rw [hout, ha]⟩
    · exact .inr ⟨r, ha, hr, by rw [hout]⟩
  | escape _ he => exact .inl ⟨rfl, .inr (.inr (.inr (.inl ⟨rfl, he⟩)))⟩
  | append _ hv hroom =>
    exact .inl ⟨rfl, .inr (.inr (.inr (.inr
      ⟨_, rfl, pending_or_data_of_resolves hv, room_of_accFull_eq_false hroom⟩)))⟩
  | overflow ho hv hfull =>
    obtain ⟨n, hc, rfl⟩ := accFull_iff.mp hfull
    refine .inr (.inr ⟨_, _, rfl, ho, pending_or_data_of_resolves hv, hc, rfl, rfl, ?_⟩)
    rw [raiseOverflow_out, eq_ite_of_resolves hv]

/-- Only a flag that completes a frame of one byte or more adds a record, and it adds one (R152). -/
theorem recsOf_of_blockEffect (h : BlockEffect s ev t) :
    recsOf t.out = recsOf s.out ∨ ∃ r, recsOf t.out = recsOf s.out ++ [r] := by
  cases h with
  | flag =>
    rw [completeFrame_out, recsOf_append]
    obtain ⟨-, hout⟩ | ⟨r, -, -, hout⟩ := frameOutputs_cases s.acc <;> rw [hout]
    · exact .inl (List.append_nil _)
    · exact .inr ⟨r, rfl⟩
  | overflow => exact .inl (by simp)
  | stuck | reset | eoi | escape | append => exact .inl rfl

/-- Settles O53: the Sink text is the rendering of the REC_OUT sequence, one result after another. -/
theorem oneRenderingPerRecord : Obligations.OneRenderingPerRecord := by
  intro p ev s t h
  refine (recsOf_of_blockEffect (blockStep_next_iff.mp h)).imp
    (fun hrecs => ⟨hrecs, ?_⟩) fun ⟨r, hrecs⟩ => ⟨r, hrecs, ?_⟩
  · rw [sinkText, hrecs, sinkText]
  · rw [sinkText, hrecs, List.flatMap_append, List.flatMap_singleton, sinkText]

/-! ## The composition's operations -/

/-- Settles O31: the frame completed is the empty one, whose outputs are the frame alone. -/
theorem emptyFrameIsSkipped : Obligations.EmptyFrameIsSkipped := by
  refine ⟨decode_pipe_nil, fun _ => rfl, ?_⟩
  rintro ⟨_, _, _, _, _, _⟩ rfl rfl rfl
  exact blockStep_flag_next rfl rfl

/-- Settles O32: the decoder has a result for every frame, and the operation delivers it. -/
theorem nonEmptyFrameIsDecoded : Obligations.NonEmptyFrameIsDecoded := by
  intro f s hf
  obtain ⟨r, hr⟩ := decodeFrame_completes f
  refine ⟨decodeOfEncodeIsTheOperation (.pipeDecode f) (by simp [WellFormed, Instr.wf, hf]), r, hr, ?_⟩
  rw [exec_pipeDecode hf, hr, deliver_some]
  rfl

/-! ## The end of a run -/

/-- Settles O49: the EOI behind the run is stuck, and `ovf` stays 1, or empties the block. -/
theorem eoiTerminatedRunEndsInTheResetState : Obligations.EoiTerminatedRunEndsInTheResetState := by
  intro evs s t h hto
  obtain ⟨u, hu⟩ := runEvents_completes evs s
  rw [runEvents_append hu] at h
  obtain ⟨w, heoi, h⟩ := runEvents_cons_next h
  cases h
  cases heoi with
  | stuck ho => rw [hto] at ho; cases ho
  | eoi ho => exact ⟨rfl, rfl, ho⟩

/-! ## Decimal numerals -/

theorem toNat_decDigit {n : Nat} (h : n < 10) : (decDigit n).toNat = 48 + n := by
  revert n; decide

/-- The induction along a numeral: a number below 10 is its digit, and any other is the numeral of a
tenth of it and then its last digit. The fuel of `dec` is enough for every digit. -/
theorem dec_induction {P : Nat → List Char → Prop} (hdigit : ∀ n < 10, P n [decDigit n])
    (hsnoc : ∀ n d, 10 ≤ n → P (n / 10) d → P n (d ++ [decDigit (n % 10)])) (n : Nat) :
    P n (dec n) := by
  suffices hfuel : ∀ fuel n, n < fuel → P n (decDigits fuel n) from hfuel _ _ (Nat.lt_succ_self n)
  intro fuel
  induction fuel with
  | zero => exact fun _ h => absurd h (Nat.not_lt_zero _)
  | succ fuel ih =>
    intro n hn
    rw [decDigits]
    split
    · exact hdigit n ‹_›
    · exact hsnoc n _ (by omega) (ih _ (by omega))

/-- The value of a decimal numeral, read from its first digit on. -/
def decValue (d : List Char) : Nat := d.foldl (fun a c => 10 * a + (c.toNat - 48)) 0

theorem decValue_snoc_decDigit (d : List Char) {n : Nat} (h : n < 10) :
    decValue (d ++ [decDigit n]) = 10 * decValue d + n := by
  simp [decValue, toNat_decDigit h]

theorem decValue_dec (n : Nat) : decValue (dec n) = n := by
  refine dec_induction (P := fun n d => decValue d = n) (fun n hn => ?_) (fun n d _ ih => ?_) n
  · exact (decValue_snoc_decDigit [] hn).trans (Nat.zero_add n)
  · rw [decValue_snoc_decDigit d (Nat.mod_lt n (by decide)), ih]
    exact Nat.div_add_mod n 10

theorem digit_of_mem_dec (n : Nat) : ∀ c ∈ dec n, 48 ≤ c.toNat ∧ c.toNat ≤ 57 := by
  have hdigit (n : Nat) (hn : n < 10) : ∀ c ∈ [decDigit n], 48 ≤ c.toNat ∧ c.toNat ≤ 57 := by
    rw [List.forall_mem_singleton, toNat_decDigit hn]
    omega
  refine dec_induction (P := fun _ d => ∀ c ∈ d, 48 ≤ c.toNat ∧ c.toNat ≤ 57) hdigit
    (fun n d _ ih => ?_) n
  exact List.forall_mem_append.mpr ⟨ih, hdigit _ (Nat.mod_lt n (by decide))⟩

theorem decDigit_ne_zero {n : Nat} (h : n < 10) (hn : n ≠ 0) : decDigit n ≠ '0' := by
  revert n; decide

theorem head?_dec {n : Nat} (hn : n ≠ 0) : ∃ c, (dec n).head? = some c ∧ c ≠ '0' := by
  refine dec_induction (P := fun n d => n ≠ 0 → ∃ c, d.head? = some c ∧ c ≠ '0')
    (fun n hlt hn => ⟨_, rfl, decDigit_ne_zero hlt hn⟩) (fun n d hge ih _ => ?_) n hn
  obtain ⟨c, hc, hne⟩ := ih (by omega)
  exact ⟨c, by rw [List.head?_append, hc]; rfl, hne⟩

/-- Settles O51: each clause by the induction along the numeral. -/
theorem decimalNumeralsReadBack : Obligations.DecimalNumeralsReadBack := by
  refine ⟨rfl, fun n => ⟨decValue_dec n, digit_of_mem_dec n, fun hn hzero => ?_⟩⟩
  obtain ⟨c, hc, hne⟩ := head?_dec hn
  exact hne (Option.some.inj (hc.symm.trans hzero))

theorem length_dec_le {n k : Nat} (h : n < 10 ^ (k + 1)) : (dec n).length ≤ k + 1 := by
  refine dec_induction (P := fun n d => ∀ k, n < 10 ^ (k + 1) → d.length ≤ k + 1)
    (fun _ _ k _ => Nat.le_add_left 1 k) (fun n d hge ih k hk => ?_) n k h
  cases k with
  | zero => omega
  | succ k =>
    rw [List.length_append, List.length_singleton]
    exact Nat.succ_le_succ (ih k (by omega))

/-! ## The rendering of a record -/

/-- The numeral of a 32-bit timestamp fits the field, so the padding fills it exactly. -/
theorem length_padLeft10_dec (ts : BitVec 32) : (padLeft10 (dec ts.toNat)).length = 10 := by
  have hlen : (dec ts.toNat).length ≤ 10 := length_dec_le (k := 9) (ts.isLt.trans (by decide))
  rw [padLeft10, List.length_append, List.length_replicate]
  exact Nat.sub_add_cancel hlen

theorem textMap_of_printable {p : RenderParams} (hp : p.Legal) {bs : List Byte}
    (h : ∀ b ∈ bs, 0x20 ≤ b.toNat ∧ b.toNat ≤ 0x7E) :
    p.textMap bs = bs.map fun b => Char.ofNat b.toNat :=
  hp.text_id bs fun b hb => decide_eq_true (h b hb)

/-- Settles O50: the padding fills the timestamp's field, and TEXT_MAP is the identity on the fields. -/
theorem printableLogRendering : Obligations.PrintableLogRendering := by
  intro p ts ln msg sf hp hmsg hsf
  refine ⟨_, fun _ => List.eq_of_mem_replicate, length_padLeft10_dec ts, ?_⟩
  rw [render, renderLog, textMap_of_printable hp hmsg, textMap_of_printable hp hsf]
  rfl

/-- The sixteen digits, in order of their values. -/
def hexAlphabet : HexCase → List Char
  | .lower => "0123456789abcdef".toList
  | .upper => "0123456789ABCDEF".toList

theorem hexDigit_eq_getD (c : HexCase) {n : Nat} (h : n < 16) :
    hexDigit c n = (hexAlphabet c).getD n '?' := by
  revert n; cases c <;> decide

theorem hexDigit_inj (c : HexCase) : ∀ m < 16, ∀ n < 16, hexDigit c m = hexDigit c n → m = n := by
  cases c <;> decide

theorem high_nibble_lt (b : Byte) : b.toNat / 16 < 16 := Nat.div_lt_of_lt_mul b.isLt

theorem low_nibble_lt (b : Byte) : b.toNat % 16 < 16 := Nat.mod_lt _ (by decide)

theorem hex_cons (c : HexCase) (b : Byte) (f : Frame) :
    hex c (b :: f) = hexDigit c (b.toNat / 16) :: hexDigit c (b.toNat % 16) :: hex c f := rfl

theorem hex_eq_flatMap_getD (c : HexCase) (f : Frame) :
    hex c f = f.flatMap fun b =>
      [(hexAlphabet c).getD (b.toNat / 16) '?', (hexAlphabet c).getD (b.toNat % 16) '?'] := by
  simp only [hex, hexDigit_eq_getD c (high_nibble_lt _), hexDigit_eq_getD c (low_nibble_lt _)]

theorem length_hex (c : HexCase) (f : Frame) : (hex c f).length = 2 * f.length := by
  induction f with
  | nil => rfl
  | cons b f ih => simp only [hex_cons, List.length_cons, ih, Nat.mul_succ]

/-- A byte is its two nibbles, so its two digits give it back. -/
theorem byte_eq_of_hexDigits_eq {c : HexCase} {a b : Byte}
    (hhigh : hexDigit c (a.toNat / 16) = hexDigit c (b.toNat / 16))
    (hlow : hexDigit c (a.toNat % 16) = hexDigit c (b.toNat % 16)) : a = b := by
  have hdiv := hexDigit_inj c _ (high_nibble_lt a) _ (high_nibble_lt b) hhigh
  have hmod := hexDigit_inj c _ (low_nibble_lt a) _ (low_nibble_lt b) hlow
  exact BitVec.eq_of_toNat_eq (Nat.ext_div_mod hdiv hmod)

theorem hex_injective (c : HexCase) : Function.Injective (hex c) := by
  intro f
  induction f with
  | nil =>
    intro g h
    cases g with
    | nil => rfl
    | cons b g => cases h
  | cons a f ih =>
    intro g h
    cases g with
    | nil => cases h
    | cons b g =>
      rw [hex_cons, hex_cons, List.cons.injEq, List.cons.injEq] at h
      obtain ⟨hhigh, hlow, htail⟩ := h
      rw [byte_eq_of_hexDigits_eq hhigh hlow, ih htail]

/-- Settles O52: the digits are those of the alphabet, and they give the frame back. -/
theorem unrecRenderingIsTheHexDump : Obligations.UnrecRenderingIsTheHexDump :=
  fun p f => ⟨rfl, hex_eq_flatMap_getD p.hexCase f, length_hex p.hexCase f,
    fun _ h => hex_injective p.hexCase h⟩

end Sys2Proof.Machine
end

section
/-! SUPPORT. Proofs of the family `60_exceptions`: the Overflow fault and what raises it (spec/60_exceptions.md
R172), the block while it holds the fault (R173), the completion of every step and run (R170), and the step
with no event (R184). -/

namespace Sys2Proof.Machine

variable {s t : State} {i : Instr} {b v : Byte}

/-! ## The fault and what raises it -/

/-- The converse of `pending_or_data_of_resolves` and `eq_ite_of_resolves`. -/
theorem resolves_of_pending_or_data {e : Bool} (h : e = true ∨ (b ≠ 0x7D#8 ∧ b ≠ 0x7E#8)) :
    Resolves e b (if e then b ^^^ 0x20#8 else b) := by
  cases e with
  | true => exact .pending
  | false =>
    obtain ⟨hesc, hflag⟩ := h.resolve_left nofun
    exact .data (byteClass_data_of_ne hesc hflag)

/-- The byte an appending operation appends names the operation, or its operand by R63's involution. -/
theorem operation_and_byte_of_appends {e : Bool} (h : Appends i e v) :
    (i = .dfFlagX ∧ v = 0x5E#8) ∨ (i = .dfEscX ∧ v = 0x5D#8) ∨ i = .dfData v
      ∨ i = .dfDataX (v ^^^ 0x20#8) := by
  cases h with
  | flagX => exact .inl ⟨rfl, unescape_flag⟩
  | escX => exact .inr (.inl ⟨rfl, unescape_esc⟩)
  | data => exact .inr (.inr (.inl rfl))
  | dataX => exact .inr (.inr (.inr (congrArg Instr.dfDataX (unescape_unescape _).symm)))

/-- Settles O18: a byte that resolves overflows at the bound, and no other effect of an operation adds a
fault or sets `ovf`. -/
theorem overflowIsPreciseAndTheOnlyFault : Obligations.OverflowIsPreciseAndTheOnlyFault := by
  refine ⟨?_, fun i s t h => ?_⟩
  · rintro s _ b hc rfl ho hb
    have hfull : accFull s = true := accFull_iff.mpr ⟨_, hc, rfl⟩
    exact blockStep_of_effect (.overflow ho (resolves_of_pending_or_data hb) hfull)
  · cases exec_next h with
    | overflow ho ha hfull =>
      obtain ⟨n, hc, rfl⟩ := accFull_iff.mp hfull
      exact .inr ⟨_, _, hc, rfl, ho, operation_and_byte_of_appends ha, rfl, rfl⟩
    | reset => exact .inl ⟨rfl, nofun⟩
    | flag | record => exact .inl ⟨by simp, id⟩
    | eoi | escape | append | skip => exact .inl ⟨rfl, id⟩

/-! ## While the fault is held -/

theorem runEvents_stuck {evs : List InEvent} (ho : s.ovf = true) (h : .reset ∉ evs) :
    runEvents evs s = .next s := by
  induction evs with
  | nil => rfl
  | cons ev evs ih =>
    obtain ⟨hev, hevs⟩ := not_or.mp (mt List.mem_cons.mpr h)
    rw [runEvents_cons_of_effect (.stuck ho (Ne.symm hev)), ih hevs]

/-- Settles O19: every event of the list is stuck, so RESET finds the state before the list. -/
theorem faultedBlockIsStuckUntilReset : Obligations.FaultedBlockIsStuckUntilReset := by
  intro s evs ho h
  have hstuck := runEvents_stuck ho h
  refine ⟨hstuck, ?_⟩
  rw [runEvents_append hstuck, runEvents_cons_of_effect .reset]
  rfl

/-- Overflow records itself; no other operation sets `ovf`, and none removes an event from the trace. -/
theorem exec_keeps_faultRecorded (hs : s.faultRecorded) (h : exec i s = .next t) :
    t.faultRecorded := by
  unfold State.faultRecorded at hs ⊢
  cases exec_next h with
  | overflow => simp
  | reset => exact nofun
  | flag | record => simpa using hs
  | eoi | escape | append | skip => exact hs

/-- Settles O36: every operation keeps the property, and it does not speak of the queue. -/
theorem stepKeepsTheFaultRecorded : Obligations.StepKeepsTheFaultRecorded :=
  fun _ _ hs h => step_keeps (P := State.faultRecorded) exec_keeps_faultRecorded id hs h

/-! ## Every step answers -/

/-- Settles O40: a step completes whatever the queue holds, and so does a run, event by event. -/
theorem everyEventListRuns : Obligations.EveryEventListRuns := ⟨step_completes, runEvents_completes⟩

/-- Settles O39: an empty queue is the case in which `takeEvent` takes nothing. -/
theorem withNoEventTheStatePersists : Obligations.WithNoEventTheStatePersists :=
  fun _ hq => takeEvent_nil hq

end Sys2Proof.Machine
end

section
/-! SUPPORT. Proofs of the family `70_reset_and_hazards`: the block's behaviour is a function of `esc`,
`acc`, `ovf` and `ACC_CAP` alone, so an un-escaped flag resynchronises it (spec/70_reset_and_hazards.md
R194). -/

namespace Sys2Proof.Machine

variable {s t : State} {ev : InEvent} {evs : List InEvent}

/-- The block reads neither its queue nor its trace: on any others it has the same effect, and adds the
same outputs. -/
theorem blockEffect_with_input_out (h : BlockEffect s ev t) :
    ∃ o, t.out = s.out ++ o ∧ ∀ q p,
      BlockEffect { s with input := q, out := p } ev { t with input := q, out := p ++ o } := by
  have hquiet {t : State} (hout : t.out = s.out)
      (h : ∀ p, BlockEffect { s with out := p } ev { t with out := p }) :
      ∃ o, t.out = s.out ++ o ∧ ∀ q p,
        BlockEffect { s with input := q, out := p } ev { t with input := q, out := p ++ o } :=
    ⟨[], by rw [hout, List.append_nil], fun q p => by
      rw [List.append_nil]; exact blockEffect_with_input q (h p)⟩
  cases h with
  | stuck ho hev => exact hquiet rfl fun _ => .stuck ho hev
  | reset => exact hquiet rfl fun _ => .reset
  | eoi ho => exact hquiet rfl fun _ => .eoi ho
  | escape ho he => exact hquiet rfl fun _ => .escape ho he
  | append ho hv hroom =>
    exact hquiet rfl fun p => .append (s := { s with out := p }) ho hv hroom
  | flag ho he => exact ⟨_, rfl, fun _ _ => .flag ho he⟩
  | overflow ho hv hfull =>
    exact ⟨_, rfl, fun q p => .overflow (s := { s with input := q, out := p }) ho hv hfull⟩

theorem runEvents_with_input_out (h : runEvents evs s = .next t) :
    ∃ o, t.out = s.out ++ o ∧ ∀ q p,
      runEvents evs { s with input := q, out := p } = .next { t with input := q, out := p ++ o } := by
  induction evs generalizing s with
  | nil => cases h; exact ⟨[], by simp, fun _ _ => by simp [runEvents]⟩
  | cons ev evs ih =>
    obtain ⟨u, hu, h⟩ := runEvents_cons_next h
    obtain ⟨o, hout, heffect⟩ := blockEffect_with_input_out hu
    obtain ⟨o', hout', hrun⟩ := ih h
    refine ⟨o ++ o', by rw [hout', hout, List.append_assoc], fun q p => ?_⟩
    rw [runEvents_cons_of_effect (heffect q p), hrun, List.append_assoc]

/-- Settles O47: the two states behind the flag differ in the queue and the trace only. -/
theorem flagResynchronises : Obligations.FlagResynchronises := by
  refine ⟨fun s t he ho h => ?_, fun s1 s2 t1 t2 evs he1 he2 ho1 ho2 hcap h1 h2 => ?_⟩
  · cases (blockStep_flag_next ho he).symm.trans h
    exact ⟨he, rfl, rfl⟩
  · replace h1 := (runEvents_cons_of_effect (.flag ho1 he1)).symm.trans h1
    replace h2 := (runEvents_cons_of_effect (.flag ho2 he2)).symm.trans h2
    have hs2 : s2.completeFrame =
        { s1.completeFrame with input := s2.input, out := s2.completeFrame.out } := by
      simp [State.completeFrame, he1, he2, ho1, ho2, hcap]
    obtain ⟨o, hout, hrun⟩ := runEvents_with_input_out h1
    rw [hs2, hrun] at h2
    cases h2
    exact ⟨rfl, rfl, rfl, o, hout, rfl⟩

end Sys2Proof.Machine
end
